-- ==== Sys2Proof/Word.lean ====
section
/-!
DEFINITION. The word types of spec/00_scope.md R7, R8: a byte, a 16-bit command word, a 64-bit
register, and the file of eight words a..h that R28 and R29 of spec/10_state.md give.
-/

namespace Sys2Proof

/-- A byte (R8). -/
abbrev Byte := BitVec 8

/-- A command word of the host (R7, R70). -/
abbrev CmdWord := BitVec 16

/-- One data register; a short-track word stands in its low 32 bits (R28, decision D18). -/
abbrev Word64 := BitVec 64

/-- Eight words of `w` bits in register order: `H[0..7]` (R28) or `a..h` (R29). `H[0]` is `a`. -/
structure Words8 (w : Nat) where
  a : BitVec w
  b : BitVec w
  c : BitVec w
  d : BitVec w
  e : BitVec w
  f : BitVec w
  g : BitVec w
  h : BitVec w
  deriving DecidableEq, Repr, Inhabited

end Sys2Proof
end

