-- ==== Sys2Proof/Syntax.lean ====
section
/-!
DEFINITION. What the host can say and what the core can find wrong with it: the three variants
(spec/00_scope.md R6), the eight rows of spec/opcode_table.json (R85 of spec/30_encoding.md), and
the five causes of a protocol error (R191 of spec/60_exceptions.md).
-/

namespace Sys2Proof

/-- The closed set of variants (R1, R6). -/
inductive Variant where
  | sha256
  | sha384
  | sha512
  deriving DecidableEq, Repr, Inhabited

/-- The two tracks of the pipeline (R2, R6). -/
inductive Track where
  | short
  | long
  deriving DecidableEq, Repr, Inhabited

/-- The causes of R191, in the order of their priority (R192). -/
inductive ProtocolError where
  | illegalOpcode
  | reservedNonzero
  | badVariant
  | badPhase
  | badIndex
  deriving DecidableEq, Repr, Inhabited

/-- One constructor per row of spec/opcode_table.json (R85). -/
inductive Instr where
  | reset
  | startSha256
  | startSha384
  | startSha512
  /-- `ABSORB b`: the next message byte, all 256 values legal (R72). -/
  | absorb (b : Byte)
  | finish
  /-- `READ i`: the digest byte index `arg[5:0]` (R72). -/
  | read (i : BitVec 6)
  | status
  deriving DecidableEq, Repr, Inhabited

end Sys2Proof
end

