-- ==== Sys2Proof/WellFormed.lean ====
section
/-!
DEFINITION. When a command word is well formed (spec/30_encoding.md R70 to R74): the three checks
that need no state. They are written here apart from Decode, by value and remainder of the word.
A term of `Instr` carries its operands at the widths R72 gives them, so each is well formed.
-/

namespace Sys2Proof

/-- R74: `op = word[15:12]` is 0x1 to 0x6. -/
def CmdWord.legalOpcode (w : CmdWord) : Bool :=
  0x1000 ≤ w.toNat && w.toNat < 0x7000

/-- R73: `rz = word[11:8]` is zero. -/
def CmdWord.rzZero (w : CmdWord) : Bool :=
  w.toNat / 0x100 % 0x10 == 0

/-- R73: the must-be-zero bits of `arg = word[7:0]` are zero, per opcode. -/
def CmdWord.argReservedZero (w : CmdWord) : Bool :=
  let arg := w.toNat % 0x100
  match w.toNat / 0x1000 with
  | 1 => arg == 0
  | 2 => arg / 4 == 0
  | 4 => arg == 0
  | 5 => arg / 0x40 == 0
  | 6 => arg == 0
  | _ => true

/-- R72: `v = 3` is reserved as the operand of `START`. -/
def CmdWord.knownVariant (w : CmdWord) : Bool :=
  !(w.toNat / 0x1000 == 2 && w.toNat % 4 == 3)

/-- One of the 326 well-formed words (R74). -/
def CmdWord.wellFormed (w : CmdWord) : Bool :=
  CmdWord.legalOpcode w && CmdWord.rzZero w && CmdWord.argReservedZero w && CmdWord.knownVariant w

/-- The operand ranges of R72. The operands' types already hold them. -/
def Instr.wellFormed : Instr → Bool
  | .reset => true
  | .startSha256 => true
  | .startSha384 => true
  | .startSha512 => true
  | .absorb b => b.toNat < 256
  | .finish => true
  | .read i => i.toNat < 64
  | .status => true

end Sys2Proof
end

