-- ==== Sys2Proof/Decode.lean ====
section
/-!
DEFINITION. The decoder of command words, `Decode` of spec/30_encoding.md R84, total on all 65536
words and rejecting by cause; after it the encoder, the table of R85, and the entry point that
numbers a word as spec/opcode_table.json does.
-/

namespace Sys2Proof

/-- `op = word[15:12]` (R70). -/
def fieldOp (w : CmdWord) : BitVec 4 := w.extractLsb' 12 4

/-- `rz = word[11:8]` (R70). -/
def fieldRz (w : CmdWord) : BitVec 4 := w.extractLsb' 8 4

/-- `arg = word[7:0]` (R70). -/
def fieldArg (w : CmdWord) : BitVec 8 := w.extractLsb' 0 8

/-- `op` 0x1, 0x4, 0x6: `arg` must be 0 (R72, R73). -/
def decodeNoOperand (i : Instr) (arg : BitVec 8) : Except ProtocolError Instr :=
  if arg ≠ 0#8 then .error .reservedNonzero else .ok i

/-- `op` 0x2: `arg[7:2]` must be 0, `arg[1:0]` is the variant code, 3 is refused (R72, R84). -/
def decodeStart (arg : BitVec 8) : Except ProtocolError Instr :=
  if arg.extractLsb' 2 6 ≠ 0#6 then .error .reservedNonzero
  else if arg.extractLsb' 0 2 = 3#2 then .error .badVariant
  else if arg.extractLsb' 0 2 = 0#2 then .ok .startSha256
  else if arg.extractLsb' 0 2 = 1#2 then .ok .startSha384
  else .ok .startSha512

/-- `op` 0x5: `arg[7:6]` must be 0, `arg[5:0]` is the index (R72). -/
def decodeRead (arg : BitVec 8) : Except ProtocolError Instr :=
  if arg.extractLsb' 6 2 ≠ 0#2 then .error .reservedNonzero
  else .ok (.read (arg.extractLsb' 0 6))

/-- R84: opcode, then `rz`, then the operand. It reads no state. -/
def decode (w : CmdWord) : Except ProtocolError Instr :=
  if fieldOp w = 0x0#4 ∨ 0x7#4 ≤ fieldOp w then .error .illegalOpcode
  else if fieldRz w ≠ 0#4 then .error .reservedNonzero
  else if fieldOp w = 0x1#4 then decodeNoOperand .reset (fieldArg w)
  else if fieldOp w = 0x2#4 then decodeStart (fieldArg w)
  else if fieldOp w = 0x3#4 then .ok (.absorb (fieldArg w))
  else if fieldOp w = 0x4#4 then decodeNoOperand .finish (fieldArg w)
  else if fieldOp w = 0x5#4 then decodeRead (fieldArg w)
  else decodeNoOperand .status (fieldArg w)

/-- The word of a command (R71, R72). -/
def encode : Instr → CmdWord
  | .reset => 0x1000#16
  | .startSha256 => 0x2000#16
  | .startSha384 => 0x2001#16
  | .startSha512 => 0x2002#16
  | .absorb b => 0x3000#16 + b.setWidth 16
  | .finish => 0x4000#16
  | .read i => 0x5000#16 + i.setWidth 16
  | .status => 0x6000#16

/-- `START v` as a command. -/
def startOf : Variant → Instr
  | .sha256 => .startSha256
  | .sha384 => .startSha384
  | .sha512 => .startSha512

/-- The match and mask of each row of spec/opcode_table.json (R85). -/
def opcodeRows : List (CmdWord × CmdWord) :=
  [(0x1000#16, 0xFFFF#16), (0x2000#16, 0xFFFF#16), (0x2001#16, 0xFFFF#16), (0x2002#16, 0xFFFF#16),
   (0x3000#16, 0xFF00#16), (0x4000#16, 0xFFFF#16), (0x5000#16, 0xFFC0#16), (0x6000#16, 0xFFFF#16)]

/-- Whether a word is one of a row's words: `word & mask == match` (R85). -/
def rowMatches (w : CmdWord) (row : CmdWord × CmdWord) : Bool :=
  w &&& row.2 == row.1

/-- What `decode` reads from a command whose bits are `w`, bit 0 its least significant (R8, R70);
a command is one word of 16 bits, so a number of more bits is no command. -/
def decodeTableWord (nbits w : Nat) : Option Instr :=
  if nbits ≤ 16 ∧ w < 2 ^ 16 then
    match decode (BitVec.ofNat 16 w) with
    | .ok i => some i
    | .error _ => none
  else none

end Sys2Proof
end

