-- ==== Sys2Proof/Machine/Bits.lean ====
section
/-!
DEFINITION. Word operations and byte order: spec/00_scope.md R9 (ROTR, SHR; ADD, and, xor, not are
those of BitVec) and R10 (BE_n and be), and the element-wise operations on eight words.
-/

namespace Sys2Proof.Machine

/-- `ROTR_w(x, n) = ((x >> n) | (x << (w - n))) mod 2^w`, for `0 < n < w` (R9). -/
def rotr {w : Nat} (x : BitVec w) (n : Nat) : BitVec w := (x >>> n) ||| (x <<< (w - n))

/-- `SHR(x, n)`: logical right shift with zero fill (R9). -/
def shr {w : Nat} (x : BitVec w) (n : Nat) : BitVec w := x >>> n

/-- `BE_n(v)`: `n` bytes, the most significant first (R10). -/
def bytesBE : Nat → Nat → List Byte
  | 0, _ => []
  | n + 1, v => BitVec.ofNat 8 (v / 2 ^ (8 * n)) :: bytesBE n v

/-- `be(A)`: the bytes read as one unsigned number, the first byte the most significant (R10). -/
def natBE (bytes : List Byte) : Nat := bytes.foldl (fun acc b => acc * 256 + b.toNat) 0

/-- `n` bytes 0x00 (R8). -/
def zeros (n : Nat) : List Byte := List.replicate n 0x00#8

/-- The eight words in register order a..h (R28). -/
def wordsList {w : Nat} (x : Words8 w) : List (BitVec w) :=
  [x.a, x.b, x.c, x.d, x.e, x.f, x.g, x.h]

/-- Each of eight words at another width: the low bits kept, or zeros put above (log 7). -/
def wordsWidth {w : Nat} (n : Nat) (x : Words8 w) : Words8 n :=
  ⟨x.a.setWidth n, x.b.setWidth n, x.c.setWidth n, x.d.setWidth n,
   x.e.setWidth n, x.f.setWidth n, x.g.setWidth n, x.h.setWidth n⟩

/-- The element-wise sum modulo 2^w (R152). -/
def wordsAdd {w : Nat} (x y : Words8 w) : Words8 w :=
  ⟨x.a + y.a, x.b + y.b, x.c + y.c, x.d + y.d, x.e + y.e, x.f + y.f, x.g + y.g, x.h + y.h⟩

end Sys2Proof.Machine
end

