-- ==== Sys2Proof/Machine/BlockDecoder.lean ====
section
/-!
DEFINITION. The Block Decoder, spec/41_block_decoder.md R120: a block to sixteen words, most
significant byte first. It has no state; its output M is wires (spec/10_state.md R31).
-/

namespace Sys2Proof.Machine

/-- `MemRead(BUF, i*q, q)` with `q = w/8`, on the block's bytes (R12, R120). -/
def blockWord {w : Nat} (block : List Byte) (i : Nat) : BitVec w :=
  BitVec.ofNat w (natBE ((block.drop (i * (w / 8))).take (w / 8)))

/-- `decode(block, w)`: `M[0..15]` (R120). -/
def decodeBlock (w : Nat) (block : List Byte) : List (BitVec w) :=
  (List.range 16).map (blockWord block)

end Sys2Proof.Machine
end

