-- ==== Sys2Proof/Machine/Compressor.lean ====
section
/-!
DEFINITION. The Compressor, spec/43_compressor.md R140 to R156.
-/

namespace Sys2Proof.Machine

/-- `Sigma1` of a track (R142, R143). -/
def bigSigma1 {w : Nat} (p : TrackParams w) (e : BitVec w) : BitVec w :=
  rotr e p.x1 ^^^ rotr e p.x2 ^^^ rotr e p.x3

/-- `Sigma0` of a track (R144, R145). -/
def bigSigma0 {w : Nat} (p : TrackParams w) (a : BitVec w) : BitVec w :=
  rotr a p.y1 ^^^ rotr a p.y2 ^^^ rotr a p.y3

/-- `Ch(e, f, g) = (e and f) xor ((not e) and g)` (R146). -/
def ch {w : Nat} (e f g : BitVec w) : BitVec w := (e &&& f) ^^^ (~~~e &&& g)

/-- `Maj(a, b, c) = (a and b) xor (b and c) xor (c and a)` (R147). -/
def maj {w : Nat} (a b c : BitVec w) : BitVec w := (a &&& b) ^^^ (b &&& c) ^^^ (c &&& a)

/-- `T1` of a round (R148). -/
def roundT1 {w : Nat} (p : TrackParams w) (r : Words8 w) (k x : BitVec w) : BitVec w :=
  r.h + bigSigma1 p r.e + ch r.e r.f r.g + k + x

/-- `T2` of a round (R149). -/
def roundT2 {w : Nat} (p : TrackParams w) (r : Words8 w) : BitVec w :=
  bigSigma0 p r.a + maj r.a r.b r.c

/-- One round on the registers a..h, with its constant and its schedule word: the eight assignments
of R150, all from the values at the start of the round. -/
def round {w : Nat} (p : TrackParams w) (r : Words8 w) (kx : BitVec w × BitVec w) : Words8 w :=
  let t1 := roundT1 p r kx.1 kx.2
  ⟨t1 + roundT2 p r, r.a, r.b, r.c, r.d + t1, r.e, r.f, r.g⟩

/-- All rounds, `i` ascending, round `i` with `K[i]` and `W[i]` (R151), from `a..h <- H` (R141). -/
def runRounds {w : Nat} (p : TrackParams w) (h : Words8 w) (ws : List (BitVec w)) : Words8 w :=
  (p.k.zip ws).foldl (round p) h

/-- `compress(H, W, K)`: the rounds, then the fold into `H` (R140, R152). -/
def compress {w : Nat} (p : TrackParams w) (h : Words8 w) (ws : List (BitVec w)) : Words8 w :=
  wordsAdd h (runRounds p h ws)

end Sys2Proof.Machine
end

