-- ==== Sys2Proof/Config.lean ====
section
/-!
DEFINITION. What the spec leaves to an implementation or without a value. None of these constants
has a body, so no proof can know a value of it.

DESIGN CHOICE (log 5): after a RESET command or an assertion of `rst` the registers LEN, H, a..h
and W "hold no value" (spec/10_state.md R36, spec/90_conflicts.md C11). They then hold the free
values below, one for each count of the model's own counter `fresh`. Safe: nothing constrains them.
-/

namespace Sys2Proof

/-- What LEN holds after the `n`-th reset (R36). -/
opaque Config.freeLen : Nat → BitVec 128

/-- What `H[0..7]` hold after the `n`-th reset (R36). -/
opaque Config.freeHash : Nat → Words8 64

/-- What `a..h` hold after the `n`-th reset (R36). -/
opaque Config.freeRounds : Nat → Words8 64

/-- What `W[0..79]` hold after the `n`-th reset (R36). -/
opaque Config.freeSchedule : Nat → Vector Word64 80

/-- `T_cmd`, the cycles a command takes: OPEN, and no rule reads it (R7, R217; log 15). -/
opaque Config.tCmd : Nat

end Sys2Proof
end

