-- ==== Sys2Proof/Machine/State.lean ====
section
/-!
DEFINITION. The state of one core: the tuple of spec/10_state.md R20, the datapath registers a..h
and W (R29, R30), and the model's own port fields. Plain data.
-/

namespace Sys2Proof.Machine

/-- PHASE (R22). Code 3 is never held, and is no constructor. -/
inductive Phase where
  | idle
  | absorbing
  | done
  deriving DecidableEq, Repr, Inhabited

/-- VAR (R21): the selected variant, or NONE after reset. NONE is the spec's own value of VAR
(code 3), not a missing one. -/
inductive VarReg where
  | sel (v : Variant)
  | none
  deriving DecidableEq, Repr, Inhabited

/-- A byte-indexed space of the core, BUF or DIGEST (spec/20_memory.md R50): the bytes that hold a
value, indices strictly rising. DESIGN CHOICE (log 4): an index that is not listed holds no value
(R36), and reading it is a fault. Safe. -/
abbrev Memory := List Host.Cell

/-- One transaction of the host: a command word (R11), or the pin `rst` asserted between commands
(R210, R211). -/
inductive PortInput where
  | word (w : CmdWord)
  | rst
  deriving DecidableEq, Repr, Inhabited

structure State where
  /-- PHASE, 2 bits (R22). -/
  phase : Phase
  /-- VAR, 2 bits (R21). -/
  var : VarReg
  /-- ERR, 1 bit (R23). -/
  err : Bool
  /-- ERRCODE, 3 bits (R23, R191). -/
  errCode : BitVec 3
  /-- LEN, 128 bits: message bits absorbed, modulo 2^128 (R25). -/
  len : BitVec 128
  /-- BUF[0..127] (R27). -/
  buf : Memory
  /-- H[0..7], the hash state (R28). -/
  hash : Words8 64
  /-- a..h, the round registers (R29; log 8). -/
  rounds : Words8 64
  /-- W[0..79], the schedule (R30; log 8). -/
  schedule : Vector Word64 80
  /-- DIGEST[0..63] (R32). -/
  digest : Memory
  /-- MODEL's own: what the host has handed over and the core has not taken, oldest first (log 1). -/
  port : List PortInput
  /-- MODEL's own: the response bytes given so far, oldest first (R76; log 2). -/
  out : List Byte
  /-- MODEL's own: how many resets have drawn free values (log 5). -/
  fresh : Nat
  deriving DecidableEq, Repr

/-- Why the model stops. No rule of the spec makes the core do any of these; every one is safe. -/
inductive Fault where
  /-- ABSORB (when the block fills) and FINISH raise it: BUF[i] is read and holds no value.
  spec/10_state.md R36 and spec/93_implementation_defined.md V1 ask for a model's fault; R109 says
  it is never reached. Safe. -/
  | bufNoValue (i : Nat)
  /-- READ raises it: DIGEST[i] is read and holds no value, in a state no run reaches (R38 item 5).
  Safe. -/
  | digestNoValue (i : Nat)
  /-- ABSORB, FINISH and READ raise it: the phase is ABSORBING or DONE and VAR is NONE, which R38
  item 1 rules out; no rule gives NONE a track or a digest length (R6). Safe. -/
  | noVariant
  deriving DecidableEq, Repr

/-- Why a command is refused by the MODEL (a command the spec refuses takes the error entry of
R193, which is a next state). -/
inductive Refusal where
  /-- `exec` answers it for an instruction that has no meaning yet; no instruction is left. Safe. -/
  | notModelled (mnemonic : String)
  deriving DecidableEq, Repr

/-- What the command port shows to a step. -/
inductive Fetch where
  /-- The host has handed nothing over. -/
  | nothing
  /-- `rst` is asserted; the state has it taken off the port. -/
  | pin (s : State)
  /-- A command word; the state has it taken off the port. -/
  | command (w : CmdWord) (s : State)
  deriving DecidableEq, Repr

/-- The state after reset (R36, R210). DESIGN CHOICE (log 3): LEN, H, a..h and W, to which the
spec gives no reset value, hold zero here. Unsafe: a proof about the run from reset could lean on
the zeros; no rule reads them before writing them. -/
def State.reset : State where
  phase := .idle
  var := .none
  err := false
  errCode := 0#3
  len := 0#128
  buf := []
  hash := ⟨0#64, 0#64, 0#64, 0#64, 0#64, 0#64, 0#64, 0#64⟩
  rounds := ⟨0#64, 0#64, 0#64, 0#64, 0#64, 0#64, 0#64, 0#64⟩
  schedule := Vector.replicate 80 0#64
  digest := []
  port := []
  out := []
  fresh := 0

end Sys2Proof.Machine
end

