-- ==== Sys2Proof/Machine/Flags.lean ====
section
/-!
DEFINITION. The codes of the control registers and the STATUS view (spec/10_state.md R21 to R24,
spec/60_exceptions.md R191). The core has no arithmetic flags (R35): ERR and ERRCODE are the only
ones, and `recordError` in Ops.lean is the only operation that sets them.
-/

namespace Sys2Proof.Machine

/-- The code of PHASE (R22). -/
def phaseCode : Phase → BitVec 2
  | .idle => 0#2
  | .absorbing => 1#2
  | .done => 2#2

/-- The code of a variant as `VAR` and as the operand of START (R21, R72). -/
def variantCode : Variant → BitVec 2
  | .sha256 => 0#2
  | .sha384 => 1#2
  | .sha512 => 2#2

/-- The code of VAR, NONE among them (R21). -/
def varCode : VarReg → BitVec 2
  | .sel v => variantCode v
  | .none => 3#2

/-- The code of a cause (R191). -/
def errorCode : ProtocolError → BitVec 3
  | .illegalOpcode => 1#3
  | .reservedNonzero => 2#3
  | .badVariant => 3#3
  | .badPhase => 4#3
  | .badIndex => 5#3

/-- ERR as a bit (R24). -/
def errBit (e : Bool) : BitVec 1 := if e then 1#1 else 0#1

/-- `STATUS = (ERRCODE << 5) | (ERR << 4) | (VAR << 2) | PHASE` (R24). -/
def statusByte (s : State) : Byte :=
  (s.errCode.setWidth 8 <<< 5) ||| ((errBit s.err).setWidth 8 <<< 4)
    ||| ((varCode s.var).setWidth 8 <<< 2) ||| (phaseCode s.phase).setWidth 8

end Sys2Proof.Machine
end

