-- ==== Sys2Proof/Machine/Operands.lean ====
section
/-!
DEFINITION. What a command's operands and the variant stand for: the parameters of a variant
(spec/00_scope.md R6, spec/44_formatter.md R161), `fill` (spec/10_state.md R26), the digest index
(spec/30_encoding.md R72).
-/

namespace Sys2Proof.Machine

/-- `track(v)` (R6). -/
def trackOf : Variant → Track
  | .sha256 => .short
  | .sha384 => .long
  | .sha512 => .long

/-- `B`, the block size in bytes (R6). -/
def blockBytes (v : Variant) : Nat :=
  match trackOf v with
  | .short => shortTrack.blockBytes
  | .long => longTrack.blockBytes

/-- `S`, the length-suffix size in bytes (R6). -/
def suffixBytes (v : Variant) : Nat :=
  match trackOf v with
  | .short => shortTrack.suffixBytes
  | .long => longTrack.suffixBytes

/-- `w/8`, the word size in bytes (R6). -/
def wordBytes (v : Variant) : Nat :=
  match trackOf v with
  | .short => 4
  | .long => 8

/-- `OW`, the output word count (R161). -/
def outWords : Variant → Nat
  | .sha256 => 8
  | .sha384 => 6
  | .sha512 => 8

/-- `DL = OW*w/8`, the digest length in bytes (R6, R161). -/
def digestBytes (v : Variant) : Nat := outWords v * wordBytes v

/-- `fill = (LEN >> 3) mod B` (R26): the message bytes of the incomplete block. -/
def fill (v : Variant) (len : BitVec 128) : Nat := (len >>> 3).toNat % blockBytes v

/-- The operand of READ as a byte index (R72): unsigned, as it stands. -/
def digestIndex (i : BitVec 6) : Nat := i.toNat

end Sys2Proof.Machine
end

