-- ==== Sys2Proof/Machine/Ops.lean ====
section
/-!
DEFINITION. The named operations over memory, registers and ports: the byte-indexed spaces
(spec/00_scope.md R12, spec/20_memory.md R50), responding (R76), taking a protocol error and the
lockout (spec/60_exceptions.md R193, R194), and reset, which is the only return from one (R195).
-/

namespace Sys2Proof.Machine

/-! ### The byte-indexed spaces BUF and DIGEST -/

/-- The canonical form: indices strictly rising. No listed entry can equal what an unlisted index
reads as, since that is no value at all. -/
abbrev Memory.wf (m : Memory) : Prop := m.Pairwise fun x y => x.1 < y.1

/-- One byte; `none` where the index holds no value (log 4). -/
def Memory.read : Memory → Nat → Option Byte
  | [], _ => none
  | (k, v) :: rest, a => if k = a then some v else Memory.read rest a

/-- Write one byte, in its place. -/
def Memory.write : Memory → Nat → Byte → Memory
  | [], a, b => [(a, b)]
  | (k, v) :: rest, a, b =>
    if a < k then (a, b) :: (k, v) :: rest
    else if a = k then (a, b) :: rest
    else (k, v) :: Memory.write rest a b

/-- The `n` bytes from `addr`, or the first index that holds no value. -/
def Memory.readRange (m : Memory) (addr : Nat) : Nat → Except Nat (List Byte)
  | 0 => .ok []
  | n + 1 =>
    match Memory.read m addr with
    | none => .error addr
    | some b =>
      match Memory.readRange m (addr + 1) n with
      | .error i => .error i
      | .ok bs => .ok (b :: bs)

/-- Write a run of bytes, lowest index first. -/
def Memory.writeBytes : Memory → Nat → List Byte → Memory
  | m, _, [] => m
  | m, addr, b :: bs => Memory.writeBytes (Memory.write m addr b) (addr + 1) bs

/-- `MemWrite(A, addr, n, v)`: `A[addr .. addr+n-1] <- BE_n(v)` (R12). -/
def Memory.writeBE (m : Memory) (addr n v : Nat) : Memory :=
  Memory.writeBytes m addr (bytesBE n v)

/-- `n` bytes 0x00 from `addr` (R107). -/
def Memory.zeroFill (m : Memory) (addr n : Nat) : Memory :=
  Memory.writeBytes m addr (zeros n)

/-! ### Updates of the state -/

/-- Give a response byte (R76). -/
def respond (b : Byte) (s : State) : State := { s with out := s.out ++ [b] }

/-- Replace the contents of BUF. -/
def setBuf (m : Memory) (s : State) : State := { s with buf := m }

/-- Append a message byte at `f`: `BUF[f] <- b; LEN <- (LEN + 8) mod 2^128` (R106). -/
def storeByte (f : Nat) (b : Byte) (s : State) : State :=
  { s with buf := Memory.write s.buf f b, len := s.len + 8#128 }

/-- `W[i] <- ws[i]` from `i` up; the rest of W keeps its words (R130). -/
def loadSchedule (old : Vector Word64 80) : Nat → List Word64 → Vector Word64 80
  | _, [] => old
  | i, x :: xs => loadSchedule (old.setIfInBounds i x) (i + 1) xs

/-- What a processed block leaves in the datapath: the schedule, the round registers, and the
folded hash state (R180). -/
def storeBlock {w : Nat} (ws : List (BitVec w)) (r h : Words8 w) (s : State) : State :=
  { s with
    schedule := loadSchedule s.schedule 0 (ws.map (·.setWidth 64))
    rounds := wordsWidth 64 r
    hash := wordsWidth 64 h }

/-- Leave the digest in DIGEST and go to DONE (R107, R160). DIGEST holds a value exactly at the
bytes given (R32; log 11). -/
def storeDigest (bytes : List Byte) (s : State) : State :=
  { s with digest := Memory.writeBytes [] 0 bytes, phase := .done }

/-- Open a session (R166): VAR, H, LEN, PHASE; DIGEST loses its value; BUF is not touched. -/
def openSession (v : Variant) (s : State) : State :=
  { s with
    var := .sel v
    hash := initialHash v
    len := 0#128
    phase := .absorbing
    digest := [] }

/-! ### Taking a protocol error, and the return from it -/

/-- Error entry (R193): `ERR <- 1; ERRCODE <- k`, nothing else. -/
def recordError (c : ProtocolError) (s : State) : State :=
  { s with err := true, errCode := errorCode c }

/-- `raise ProtocolError(c)` (R193): the command has no other effect and gives no response. -/
def raiseError (c : ProtocolError) (s : State) : Host.Outcome State Fault Refusal :=
  .next (recordError c s)

/-- The lockout (R194): while `ERR = 1` a command is dropped with no effect; else it is performed. -/
def unlessLocked (perform : State → Host.Outcome State Fault Refusal) (s : State) :
    Host.Outcome State Fault Refusal :=
  if s.err then .next s else perform s

/-- Reset (R36, R184, R210), the only error return (R195): the control registers take their reset
values, and every other register of the core holds no value afterwards. BUF and DIGEST list nothing;
LEN, H, a..h and W hold free values (log 5). The ports are the host's and are not touched (log 1). -/
def resetCore (s : State) : State :=
  { s with
    phase := .idle
    var := .none
    err := false
    errCode := 0#3
    len := Config.freeLen s.fresh
    buf := []
    hash := Config.freeHash s.fresh
    rounds := Config.freeRounds s.fresh
    schedule := Config.freeSchedule s.fresh
    digest := []
    fresh := s.fresh + 1 }

/-- The variant of the open session, for the commands that need one (log 6). -/
def withVariant (s : State) (k : Variant → Host.Outcome State Fault Refusal) :
    Host.Outcome State Fault Refusal :=
  match s.var with
  | .sel v => k v
  | .none => .fault .noVariant

/-- The outcome of a datapath operation. -/
def outcomeOf : Except Fault State → Host.Outcome State Fault Refusal
  | .ok s => .next s
  | .error e => .fault e

end Sys2Proof.Machine
end

