-- ==== Sys2Proof/Machine/ScheduleExpander.lean ====
section
/-!
DEFINITION. The Schedule Expander, spec/42_schedule_expander.md R130 to R135.
-/

namespace Sys2Proof.Machine

/-- `s0` of a track (R131, R133): two rotations and a shift. -/
def s0 {w : Nat} (p : TrackParams w) (x : BitVec w) : BitVec w :=
  rotr x p.r1 ^^^ rotr x p.r2 ^^^ shr x p.r3

/-- `s1` of a track (R132, R134). -/
def s1 {w : Nat} (p : TrackParams w) (x : BitVec w) : BitVec w :=
  rotr x p.r4 ^^^ rotr x p.r5 ^^^ shr x p.r6

/-- `W[i]` of the words made so far. -/
def wordAt {w : Nat} (ws : List (BitVec w)) (i : Nat) : BitVec w := ws.getD i 0#w

/-- One more word, `i` being the number of words made so far (R130). -/
def expandStep {w : Nat} (p : TrackParams w) (ws : List (BitVec w)) : List (BitVec w) :=
  let i := ws.length
  ws ++ [wordAt ws (i - 16) + s0 p (wordAt ws (i - 15)) + wordAt ws (i - 7)
          + s1 p (wordAt ws (i - 2))]

/-- `n` more words. -/
def expandBy {w : Nat} (p : TrackParams w) : Nat → List (BitVec w) → List (BitVec w)
  | 0, ws => ws
  | n + 1, ws => expandBy p n (expandStep p ws)

/-- `expand(M, Rn)`: `W[0..Rn-1]` (R130). -/
def expand {w : Nat} (p : TrackParams w) (m : List (BitVec w)) : List (BitVec w) :=
  expandBy p (p.roundCount - 16) m

end Sys2Proof.Machine
end

