-- ==== Sys2Proof/Machine/Engine.lean ====
section
/-!
DEFINITION. `ProcessBlock`, one block through the pipeline (spec/45_hash_system.md R180), on the
track of the variant.
-/

namespace Sys2Proof.Machine

/-- `ProcessBlock()` on a track: decode BUF[0..B-1], expand, compress into H (R180). A byte of BUF
that holds no value is a fault of the model (log 4). BUF, LEN and PHASE are not changed. -/
def processOn {w : Nat} (p : TrackParams w) (s : State) : Except Fault State :=
  match Memory.readRange s.buf 0 p.blockBytes with
  | .error i => .error (.bufNoValue i)
  | .ok block =>
    let ws := expand p (decodeBlock w block)
    let h := wordsWidth w s.hash
    .ok (storeBlock ws (runRounds p h ws) (compress p h ws) s)

/-- `ProcessBlock()` for a variant: the track decides the width, the rounds and K (R6, R155). -/
def processBlock (v : Variant) (s : State) : Except Fault State :=
  match trackOf v with
  | .short => processOn shortTrack s
  | .long => processOn longTrack s

end Sys2Proof.Machine
end

