-- ==== Sys2Proof/Machine/Formatter.lean ====
section
/-!
DEFINITION. The Variant Formatter: `format` (spec/44_formatter.md R160, R161) and its commands
START (R166) and READ (R167).
-/

namespace Sys2Proof.Machine

/-- `format(H, v)`: the first `OW` words, each most significant byte first (R160, R81). A
short-track word is the low 32 bits of its register (log 7). -/
def formatDigest (v : Variant) (h : Words8 64) : List Byte :=
  ((wordsList h).take (outWords v)).flatMap fun x => bytesBE (wordBytes v) x.toNat

/-- `START v` when `ERR = 0`, in any phase (R166). -/
def startSession (v : Variant) (s : State) : Host.Outcome State Fault Refusal :=
  .next (openSession v s)

/-- `START SHA256`. -/
def execStartSha256 (s : State) : Host.Outcome State Fault Refusal :=
  unlessLocked (startSession .sha256) s

/-- `START SHA384`. -/
def execStartSha384 (s : State) : Host.Outcome State Fault Refusal :=
  unlessLocked (startSession .sha384) s

/-- `START SHA512`. -/
def execStartSha512 (s : State) : Host.Outcome State Fault Refusal :=
  unlessLocked (startSession .sha512) s

/-- `READ i` in phase DONE, with the session's variant: BAD_INDEX at or beyond DL, else the byte
(R167, R182). -/
def readDigest (i : Nat) (s : State) (v : Variant) : Host.Outcome State Fault Refusal :=
  if digestBytes v ≤ i then raiseError .badIndex s
  else
    match Memory.read s.digest i with
    | some b => .next (respond b s)
    | none => .fault (.digestNoValue i)

/-- `READ i` when `ERR = 0`: BAD_PHASE outside DONE, before the index is looked at (R192). -/
def performRead (i : Nat) (s : State) : Host.Outcome State Fault Refusal :=
  if s.phase = .done then withVariant s (readDigest i s) else raiseError .badPhase s

/-- `READ i`. -/
def execRead (i : BitVec 6) (s : State) : Host.Outcome State Fault Refusal :=
  unlessLocked (performRead (digestIndex i)) s

end Sys2Proof.Machine
end

