-- ==== Sys2Proof/Machine/Padder.lean ====
section
/-!
DEFINITION. The Padder as hardware: ABSORB and FINISH (spec/40_padder.md R106, R107).
-/

namespace Sys2Proof.Machine

/-- ABSORB in phase ABSORBING (R106): the byte goes to BUF[fill], LEN grows by 8, and a full block
is processed at once. -/
def absorbByte (b : Byte) (s : State) (v : Variant) : Host.Outcome State Fault Refusal :=
  let f := fill v s.len
  let t := storeByte f b s
  if f = blockBytes v - 1 then outcomeOf (processBlock v t) else .next t

/-- ABSORB when `ERR = 0` (R106, R182). -/
def performAbsorb (b : Byte) (s : State) : Host.Outcome State Fault Refusal :=
  if s.phase = .absorbing then withVariant s (absorbByte b s) else raiseError .badPhase s

/-- `ABSORB b`. -/
def execAbsorb (b : Byte) (s : State) : Host.Outcome State Fault Refusal :=
  unlessLocked (performAbsorb b) s

/-- The suffix value `LEN mod 2^(8*S)` (R80, R107). -/
def suffixValue (v : Variant) (len : BitVec 128) : Nat := len.toNat % 2 ^ (8 * suffixBytes v)

/-- The end of FINISH (R107): the suffix, the last block, the digest, phase DONE. -/
def sealMessage (v : Variant) (s : State) : Except Fault State :=
  let m := Memory.writeBE s.buf (blockBytes v - suffixBytes v) (suffixBytes v) (suffixValue v s.len)
  match processBlock v (setBuf m s) with
  | .error e => .error e
  | .ok t => .ok (storeDigest (formatDigest v t.hash) t)

/-- FINISH when the suffix does not fit beside the message bytes (R107, case C of R104): the
terminator, zeros to the end, that block, then zeros up to the suffix. -/
def padTwoBlocks (v : Variant) (f : Nat) (s : State) : Except Fault State :=
  let m := Memory.zeroFill (Memory.write s.buf f 0x80#8) (f + 1) (blockBytes v - 1 - f)
  match processBlock v (setBuf m s) with
  | .error e => .error e
  | .ok t => sealMessage v (setBuf (Memory.zeroFill t.buf 0 (blockBytes v - suffixBytes v)) t)

/-- FINISH when the suffix fits (R107, cases A and B of R104): the terminator, zeros up to the
suffix. -/
def padOneBlock (v : Variant) (f : Nat) (s : State) : Except Fault State :=
  sealMessage v (setBuf (Memory.zeroFill (Memory.write s.buf f 0x80#8) (f + 1)
    (blockBytes v - suffixBytes v - 1 - f)) s)

/-- FINISH in phase ABSORBING (R107). -/
def finishMessage (s : State) (v : Variant) : Host.Outcome State Fault Refusal :=
  let f := fill v s.len
  if blockBytes v - suffixBytes v ≤ f then outcomeOf (padTwoBlocks v f s)
  else outcomeOf (padOneBlock v f s)

/-- FINISH when `ERR = 0` (R107, R182). -/
def performFinish (s : State) : Host.Outcome State Fault Refusal :=
  if s.phase = .absorbing then withVariant s (finishMessage s) else raiseError .badPhase s

/-- `FINISH`. -/
def execFinish (s : State) : Host.Outcome State Fault Refusal :=
  unlessLocked performFinish s

end Sys2Proof.Machine
end

