-- ==== Sys2Proof/Machine/System.lean ====
section
/-!
DEFINITION. The system commands RESET and STATUS (spec/45_hash_system.md R183, R184), which are
performed even while `ERR = 1` (R182), and what a word that is no command does (R191, R194).
-/

namespace Sys2Proof.Machine

/-- `RESET`: accepted always (R184). -/
def execReset (s : State) : Host.Outcome State Fault Refusal := .next (resetCore s)

/-- `STATUS`: accepted always; it responds the view and changes nothing (R183). -/
def execStatus (s : State) : Host.Outcome State Fault Refusal := .next (respond (statusByte s) s)

/-- A word that `decode` refuses with cause `c` (R182): an error entry, or dropped under lockout. -/
def execIllegal (c : ProtocolError) (s : State) : Host.Outcome State Fault Refusal :=
  unlessLocked (raiseError c) s

end Sys2Proof.Machine
end

