-- ==== Sys2Proof/Machine/Dispatch.lean ====
section
/-!
DEFINITION. The dispatch of spec/45_hash_system.md R182: one arm per row of spec/opcode_table.json.
-/

namespace Sys2Proof.Machine

def exec (i : Instr) (s : State) : Host.Outcome State Fault Refusal :=
  match i with
  | .reset => Sys2Proof.Machine.execReset s
  | .startSha256 => Sys2Proof.Machine.execStartSha256 s
  | .startSha384 => Sys2Proof.Machine.execStartSha384 s
  | .startSha512 => Sys2Proof.Machine.execStartSha512 s
  | .absorb b => Sys2Proof.Machine.execAbsorb b s
  | .finish => Sys2Proof.Machine.execFinish s
  | .read k => Sys2Proof.Machine.execRead k s
  | .status => Sys2Proof.Machine.execStatus s

end Sys2Proof.Machine
end

