-- ==== Sys2Proof/Machine/Port.lean ====
section
/-!
DEFINITION. The command port (spec/00_scope.md R11, spec/70_reset_and_hazards.md R210, R211, R216):
what a step takes from it, and what it does when there is nothing or `rst` is asserted.
-/

namespace Sys2Proof.Machine

/-- Take the oldest transaction off the port (R59; log 1). -/
def fetch (s : State) : Fetch :=
  match s.port with
  | [] => .nothing
  | .rst :: rest => .pin { s with port := rest }
  | .word w :: rest => .command w { s with port := rest }

/-- The host has handed nothing over: the core is ready and waits (R216; log 1). -/
def awaitHost (s : State) : Host.Outcome State Fault Refusal := .next s

/-- The pin `rst` (R210): the effect of RESET, and no command is taken. -/
def execPin (s : State) : Host.Outcome State Fault Refusal := .next (resetCore s)

end Sys2Proof.Machine
end

