-- ==== Sys2Proof/Machine/Step.lean ====
section
/-!
DEFINITION. One step of the machine, `Exec(state, word)` of spec/45_hash_system.md R182 on the next
transaction of the port. Everything it does is called from files a repair may mend.
-/

namespace Sys2Proof.Machine

/-- Take one transaction and perform it whole (R11, R56, R182). -/
def step (s : State) : Host.Outcome State Fault Refusal :=
  match fetch s with
  | .nothing => awaitHost s
  | .pin t => execPin t
  | .command w t =>
    match decode w with
    | .ok i => exec i t
    | .error c => execIllegal c t

/-- `s` with the word `w` as the transaction that the very next step takes (log 1): the host hands
it over ahead of whatever waits. A command is one word of 16 bits, so `nbits` decides nothing. -/
def State.withFetchWord (s : State) (_nbits w : Nat) : State :=
  { s with port := .word (BitVec.ofNat 16 w) :: s.port }

end Sys2Proof.Machine
end

