-- ==== Sys2Proof/Machine/Hash.lean ====
section
/-!
DEFINITION. The document's functions on whole messages, which the command machine must agree with:
`pad` (spec/40_padder.md R100, R101), one block's `compress` after `decode` and `expand`, and `hash`
(spec/45_hash_system.md R181); the blocks FINISH makes (R104); and the pseudo-commands of R83 of
spec/30_encoding.md. No step calls any of these.
-/

namespace Sys2Proof.Machine

/-- `z = (B - S - 1 - n) mod B`, the result in `0 .. B-1` (R101). -/
def zeroFillCount (v : Variant) (n : Nat) : Nat :=
  (((blockBytes v : Int) - suffixBytes v - 1 - n) % blockBytes v).toNat

/-- `Suffix(n, S) = BE_S((8 * n) mod 2^(8*S))` (R80). -/
def lengthSuffix (v : Variant) (n : Nat) : List Byte :=
  bytesBE (suffixBytes v) (8 * n % 2 ^ (8 * suffixBytes v))

/-- `P = m ++ [0x80] ++ zeros(z) ++ Suffix(n, S)` (R100). -/
def padStream (v : Variant) (m : List Byte) : List Byte :=
  m ++ [0x80#8] ++ zeros (zeroFillCount v m.length) ++ lengthSuffix v m.length

/-- `pad(m, track(v))`: `P[k*B .. k*B + B - 1]` for `k` in `0 .. N-1` (R100). -/
def pad (v : Variant) (m : List Byte) : List (List Byte) :=
  (List.range ((padStream v m).length / blockBytes v)).map fun k =>
    ((padStream v m).drop (k * blockBytes v)).take (blockBytes v)

/-- `compress(S, expand(decode(X, w), Rn), K)` on a track (R181). -/
def compressOn {w : Nat} (p : TrackParams w) (h : Words8 64) (block : List Byte) : Words8 64 :=
  wordsWidth 64 (compress p (wordsWidth w h) (expand p (decodeBlock w block)))

/-- One block folded into the hash state (R181), on the track of the variant. -/
def compressBlock (v : Variant) (h : Words8 64) (block : List Byte) : Words8 64 :=
  match trackOf v with
  | .short => compressOn shortTrack h block
  | .long => compressOn longTrack h block

/-- `hash(m, v)` (R181). -/
def hashMessage (v : Variant) (m : List Byte) : List Byte :=
  formatDigest v ((pad v m).foldl (compressBlock v) (initialHash v))

/-- The complete blocks of the message bytes so far: block `k` is bytes `k*B .. k*B + B - 1`
(spec/20_memory.md R64, spec/10_state.md R38 (4)). -/
def completeBlocks (v : Variant) (m : List Byte) : List (List Byte) :=
  (List.range (m.length / blockBytes v)).map fun k =>
    (m.drop (k * blockBytes v)).take (blockBytes v)

/-- The message bytes of the incomplete block, the last `n mod B` (R104). -/
def lastBytes (v : Variant) (m : List Byte) : List Byte :=
  m.drop (m.length / blockBytes v * blockBytes v)

/-- The final block or two, by the bytes `pre` of the incomplete block and LEN (R104, R107): one
block where the suffix fits (cases A and B), two where it does not (case C). -/
def finalBlocks (v : Variant) (pre : List Byte) (len : BitVec 128) : List (List Byte) :=
  let room := blockBytes v - suffixBytes v
  let suffix := bytesBE (suffixBytes v) (len.toNat % 2 ^ (8 * suffixBytes v))
  if pre.length < room then
    [pre ++ [0x80#8] ++ zeros (room - 1 - pre.length) ++ suffix]
  else
    [pre ++ [0x80#8] ++ zeros (blockBytes v - 1 - pre.length), zeros room ++ suffix]

/-- `ABSORB` of each byte of the message in order (R83). -/
def absorbs (m : List Byte) : List Instr := m.map .absorb

/-- `START v`, the message, `FINISH` (R185). -/
def sessionScript (v : Variant) (m : List Byte) : List Instr :=
  startOf v :: (absorbs m ++ [.finish])

/-- `READALL`: `READ 0 .. READ DL-1` (R83). -/
def readAll (v : Variant) : List Instr :=
  (List.range (digestBytes v)).map fun i => .read (BitVec.ofNat 6 i)

/-- `HASH v, msg` (R83, R186). -/
def hashScript (v : Variant) (m : List Byte) : List Instr := sessionScript v m ++ readAll v

/-- Commands as the words the host sends (R71). -/
def wordsOf (script : List Instr) : List PortInput := script.map fun i => .word (encode i)

end Sys2Proof.Machine
end

