-- ==== Sys2Proof/Safety.lean ====
section
/-!
DEFINITION. What holds of the machine after reset and after every step: the invariants of
spec/10_state.md R38 that one state can show, with R22, R26, R32, R36 and the canonical form of the
two byte spaces.
-/

namespace Sys2Proof.Machine

/-- `n` steps of the machine behind the host's interface. -/
def runSteps (n : Nat) (s : State) : Host.Outcome State Fault Refusal := core.run n s

/-- The invariant of one state. -/
structure State.Inv (s : State) : Prop where
  /-- R38 (1). -/
  idle_iff : s.phase = .idle ↔ s.var = .none
  /-- R38 (2). -/
  err_iff : s.err = false ↔ s.errCode = 0#3
  /-- R38 (2): ERRCODE is never 6 or 7. -/
  code_le : s.errCode.toNat ≤ 5
  /-- R24, R191: code 5 is recorded only in phase DONE. -/
  badIndex_done : s.errCode = 5#3 → s.phase = .done
  /-- R38 (3), R25, while LEN holds a value. -/
  len_bytes : s.phase ≠ .idle → s.len.toNat % 8 = 0
  /-- The canonical form of BUF. -/
  buf_wf : Memory.wf s.buf
  /-- BUF has 128 bytes (R27). -/
  buf_range : ∀ x ∈ s.buf, x.1 < 128
  /-- The canonical form of DIGEST. -/
  digest_wf : Memory.wf s.digest
  /-- R26, R38 (4): the message bytes below `fill` are in BUF. -/
  buf_held : s.phase = .absorbing → ∀ v, s.var = .sel v → ∀ i, i < fill v s.len →
    (Memory.read s.buf i).isSome = true
  /-- R32, R36: DIGEST holds a value in phase DONE only. -/
  digest_lost : s.phase ≠ .done → s.digest = []
  /-- R32: in DONE, DIGEST holds a value exactly at `0 .. DL-1`. -/
  digest_held : s.phase = .done → ∀ v, s.var = .sel v → ∀ i,
    (Memory.read s.digest i).isSome = true ↔ i < digestBytes v

/-- Which protocol error a word raises in a state with `ERR = 0`, by the table of
spec/60_exceptions.md R191 in the priority of R192. It looks at the word through WellFormed, not
through Decode. -/
def protocolErrorOf (s : State) (w : CmdWord) : Option ProtocolError :=
  if ¬ CmdWord.legalOpcode w then some .illegalOpcode
  else if ¬ (CmdWord.rzZero w ∧ CmdWord.argReservedZero w) then some .reservedNonzero
  else if ¬ CmdWord.knownVariant w then some .badVariant
  else if (w.toNat / 0x1000 = 3 ∨ w.toNat / 0x1000 = 4) ∧ s.phase ≠ .absorbing then some .badPhase
  else if w.toNat / 0x1000 = 5 ∧ s.phase ≠ .done then some .badPhase
  else if w.toNat / 0x1000 = 5 ∧ ∃ v ∈ [Variant.sha256, .sha384, .sha512],
      s.var = .sel v ∧ digestBytes v ≤ w.toNat % 0x100 then some .badIndex
  else none

/-- Two states that agree wherever a register holds a value (R36): they differ at most in a..h and W
(R29, R30), in the model's counter of resets, and, in phase IDLE, in LEN and H. -/
structure State.SameValues (s t : State) : Prop where
  phase : s.phase = t.phase
  var : s.var = t.var
  err : s.err = t.err
  errCode : s.errCode = t.errCode
  buf : s.buf = t.buf
  digest : s.digest = t.digest
  port : s.port = t.port
  out : s.out = t.out
  len : s.phase ≠ .idle → s.len = t.len
  hash : s.phase ≠ .idle → s.hash = t.hash

/-- Two outcomes that agree likewise: two next states with the same values, or one and the same
stop. -/
def SameOutcome : Host.Outcome State Fault Refusal → Host.Outcome State Fault Refusal → Prop
  | .next s, .next t => State.SameValues s t
  | .fault e, .fault f => e = f
  | .refused e, .refused f => e = f
  | _, _ => False

end Sys2Proof.Machine
end

