-- ==== Sys2Proof/Certificates/Slice0/Obligations.lean ====
section
/-!
DEFINITION. The statements for the provers, each from the numbered rules of spec/. OBLIGATIONS.json
lists them. A hypothesis that a run cannot break without leaving the reachable states is named in
the docstring; its witness is a theorem of Sys2Proof/Tests/Slice0.lean.
-/

open Sys2Proof Sys2Proof.Machine

/-! ## Encoding -/

/-- R84, in numbers: opcode, then `rz`, then the operand, then the variant. -/
def Obligations.DecodeInTheOrderOfR84 : Prop :=
  (∀ w : CmdWord,
    let op := w.toNat / 0x1000
    let rz := w.toNat / 0x100 % 0x10
    let arg := w.toNat % 0x100
    decode w =
      if op = 0 ∨ 7 ≤ op then .error .illegalOpcode
      else if rz ≠ 0 then .error .reservedNonzero
      else if op = 1 then (if arg ≠ 0 then .error .reservedNonzero else .ok .reset)
      else if op = 2 then
        (if arg / 4 ≠ 0 then .error .reservedNonzero
         else if arg % 4 = 3 then .error .badVariant
         else if arg % 4 = 0 then .ok .startSha256
         else if arg % 4 = 1 then .ok .startSha384
         else .ok .startSha512)
      else if op = 3 then .ok (.absorb (BitVec.ofNat 8 arg))
      else if op = 4 then (if arg ≠ 0 then .error .reservedNonzero else .ok .finish)
      else if op = 5 then
        (if arg / 0x40 ≠ 0 then .error .reservedNonzero else .ok (.read (BitVec.ofNat 6 arg)))
      else (if arg ≠ 0 then .error .reservedNonzero else .ok .status)) ∧
  errorCode .illegalOpcode = 1#3 ∧ errorCode .reservedNonzero = 2#3 ∧ errorCode .badVariant = 3#3

/-- Every command has exactly one word and every word that decodes is that one: no operand bit is
dropped and no two commands share a word. -/
def Obligations.DecodeExactlyInvertsEncode : Prop :=
  ∀ (w : CmdWord) (i : Instr), decode w = .ok i ↔ encode i = w

/-- R85: each row's match and mask, and no row for an illegal word. -/
def Obligations.RowsMatchExactlyTheirWords : Prop :=
  ∀ w : CmdWord,
    (w &&& 0xFFFF#16 = 0x1000#16 ↔ decode w = .ok .reset) ∧
    (w &&& 0xFFFF#16 = 0x2000#16 ↔ decode w = .ok .startSha256) ∧
    (w &&& 0xFFFF#16 = 0x2001#16 ↔ decode w = .ok .startSha384) ∧
    (w &&& 0xFFFF#16 = 0x2002#16 ↔ decode w = .ok .startSha512) ∧
    (w &&& 0xFF00#16 = 0x3000#16 ↔ ∃ b, decode w = .ok (.absorb b)) ∧
    (w &&& 0xFFFF#16 = 0x4000#16 ↔ decode w = .ok .finish) ∧
    (w &&& 0xFFC0#16 = 0x5000#16 ↔ ∃ i, decode w = .ok (.read i)) ∧
    (w &&& 0xFFFF#16 = 0x6000#16 ↔ decode w = .ok .status) ∧
    ((∀ row ∈ opcodeRows, rowMatches w row = false) ↔ ∃ c, decode w = .error c)

/-- R74: the illegal opcodes whatever the other bits, and every word well formed or refused, 326 of
them well formed. -/
def Obligations.EveryWordWellFormedOrRefused : Prop :=
  (∀ w : CmdWord, (w.toNat / 0x1000 = 0 ∨ 7 ≤ w.toNat / 0x1000) →
    decode w = .error .illegalOpcode) ∧
  errorCode .illegalOpcode = 1#3 ∧
  (∀ w : CmdWord, CmdWord.wellFormed w = true ↔ ∃ i, decode w = .ok i) ∧
  (∀ w : CmdWord, CmdWord.wellFormed w = false ↔ ∃ c, decode w = .error c) ∧
  ∃ words : List CmdWord, words.length = 326 ∧ words.Nodup ∧
    ∀ w, CmdWord.wellFormed w = true ↔ w ∈ words

/-- The sample words of 95_test_vectors.md section 8, each written out. -/
def Obligations.SampleWordsDecodeAsListed : Prop :=
  decode 0x0000#16 = .error .illegalOpcode ∧ decode 0xffff#16 = .error .illegalOpcode ∧
  decode 0x1000#16 = .ok .reset ∧ decode 0x1001#16 = .error .reservedNonzero ∧
  decode 0x2000#16 = .ok .startSha256 ∧ decode 0x2001#16 = .ok .startSha384 ∧
  decode 0x2002#16 = .ok .startSha512 ∧ decode 0x2003#16 = .error .badVariant ∧
  decode 0x2103#16 = .error .reservedNonzero ∧ decode 0x30ff#16 = .ok (.absorb 0xff#8) ∧
  decode 0x4000#16 = .ok .finish ∧ decode 0x501f#16 = .ok (.read 31#6) ∧
  decode 0x5040#16 = .error .reservedNonzero ∧ decode 0x6000#16 = .ok .status ∧
  decode 0x6100#16 = .error .reservedNonzero

/-! ## The step, the error entry, the lockout, reset -/

/-- A step on a word that decodes takes the word off the port and is `exec` of the instruction. -/
def Obligations.StepRunsTheDecodedCommand : Prop :=
  ∀ (s : State) (w : CmdWord) (rest : List PortInput) (i : Instr),
    s.port = .word w :: rest → decode w = .ok i → step s = exec i { s with port := rest }

/-- With nothing on the port the core waits unchanged (the model's choice, log 1). -/
def Obligations.WaitingCoreIsUnchanged : Prop :=
  ∀ s : State, s.port = [] → step s = .next s

/-- R59: a step takes exactly the oldest transaction and leaves the later ones, in order. -/
def Obligations.StepTakesOneTransaction : Prop :=
  ∀ s t : State, step s = .next t → t.port = s.port.tail

/-- R191, R192, R193: with `ERR = 0` a word that raises a protocol error sets ERR and ERRCODE to the
first cause that applies and has no other effect. -/
def Obligations.ErrorEntryIsPrecise : Prop :=
  (∀ (s : State) (w : CmdWord) (rest : List PortInput) (c : ProtocolError),
    s.err = false → s.port = .word w :: rest → protocolErrorOf s w = some c →
    step s = .next { s with port := rest, err := true, errCode := errorCode c }) ∧
  errorCode .illegalOpcode = 1#3 ∧ errorCode .reservedNonzero = 2#3 ∧
  errorCode .badVariant = 3#3 ∧ errorCode .badPhase = 4#3 ∧ errorCode .badIndex = 5#3

/-- R191: nothing else sets ERR: a step that sets it took a word that raises the recorded cause. -/
def Obligations.OnlyTheListedCausesSetErr : Prop :=
  ∀ s t : State, step s = .next t → s.err = false → t.err = true →
    ∃ w rest c, s.port = .word w :: rest ∧ protocolErrorOf s w = some c ∧ t.errCode = errorCode c

/-- R194: while `ERR = 1` every word but RESET and STATUS is dropped, and STATUS answers and changes
nothing. -/
def Obligations.LockoutDropsEveryOtherWord : Prop :=
  ∀ (s : State) (w : CmdWord) (rest : List PortInput),
    s.err = true → s.port = .word w :: rest →
    (w ≠ 0x1000#16 → w ≠ 0x6000#16 → step s = .next { s with port := rest }) ∧
    (w = 0x6000#16 → step s = .next { s with port := rest, out := s.out ++ [statusByte s] })

/-- R195: the pin and the command RESET clear ERR and ERRCODE and return PHASE to IDLE and VAR to
NONE; any other step from a state with `ERR = 1` keeps ERR and the first cause. -/
def Obligations.OnlyResetReturnsFromAnError : Prop :=
  ∀ s : State, s.err = true →
    (∀ rest, s.port = .rst :: rest ∨ s.port = .word 0x1000#16 :: rest →
      ∃ t, step s = .next t ∧ t.err = false ∧ t.errCode = 0#3 ∧ t.phase = .idle ∧
        t.var = .none) ∧
    ((∀ rest, s.port ≠ .rst :: rest ∧ s.port ≠ .word 0x1000#16 :: rest) →
      ∃ t, step s = .next t ∧ t.err = true ∧ t.errCode = s.errCode)

/-- R210: the pin and the command have one effect, and it is the reset state wherever a register
holds a value; while `rst` is asserted the waiting words stay. -/
def Obligations.PinAndCommandResetAlike : Prop :=
  ∀ (s : State) (rest : List PortInput),
    ∃ t, step { s with port := .rst :: rest } = .next t ∧
      step { s with port := .word 0x1000#16 :: rest } = .next t ∧
      t.phase = .idle ∧ t.var = .none ∧ t.err = false ∧ t.errCode = 0#3 ∧
      statusByte t = 0x0C#8 ∧ t.buf = [] ∧ t.digest = [] ∧ t.port = rest ∧
      State.SameValues t { State.reset with port := rest, out := s.out }

/-- R184: RESET is accepted always, `ERR = 1` included, and gives no response. -/
def Obligations.ResetCommandCompletes : Prop :=
  ∀ s : State, ∃ t, exec .reset s = .next t ∧
    t.phase = .idle ∧ t.var = .none ∧ t.err = false ∧ t.errCode = 0#3 ∧
    (∀ i, Memory.read t.buf i = none) ∧ (∀ i, Memory.read t.digest i = none) ∧
    t.port = s.port ∧ t.out = s.out

/-- R36, the values it gives: the control registers, the STATUS view, and no value in BUF and
DIGEST. -/
def Obligations.ResetStateHoldsTheListedValues : Prop :=
  State.reset.phase = .idle ∧ State.reset.var = .none ∧ State.reset.err = false ∧
  State.reset.errCode = 0#3 ∧ statusByte State.reset = 0x0C#8 ∧
  (∀ i, Memory.read State.reset.buf i = none) ∧ (∀ i, Memory.read State.reset.digest i = none)

/-! ## What each command does -/

/-- R166: `START v` opens a session in any phase; DIGEST loses its value and BUF is not touched.
With `ERR = 1` it is not accepted. Its words are `0x2000 + v`, and `v = 3` is refused by Decode. -/
def Obligations.StartOpensASession : Prop :=
  (∀ v : Variant, encode (startOf v) = 0x2000#16 + (varCode (.sel v)).setWidth 16 ∧
    decode (encode (startOf v)) = .ok (startOf v)) ∧
  decode 0x2003#16 = .error .badVariant ∧
  (∀ (s : State) (v : Variant), s.err = true → exec (startOf v) s = .next s) ∧
  ∀ s : State, s.err = false →
    exec .startSha256 s = .next { s with
      var := .sel .sha256, hash := wordsWidth 64 iv256, len := 0#128, phase := .absorbing,
      digest := [] } ∧
    exec .startSha384 s = .next { s with
      var := .sel .sha384, hash := iv384, len := 0#128, phase := .absorbing, digest := [] } ∧
    exec .startSha512 s = .next { s with
      var := .sel .sha512, hash := iv512, len := 0#128, phase := .absorbing, digest := [] }

/-- R106: ABSORB appends a byte; the byte that fills the block has the block processed at once; out
of phase it is refused with code 4, and with `ERR = 1` it is dropped. The block's other bytes hold a
value in every reachable state (R38 (4), the invariant StepKeepsTheInvariant). -/
def Obligations.AbsorbAppendsAByte : Prop :=
  (∀ b : Byte, decode (0x3000#16 + b.setWidth 16) = .ok (.absorb b)) ∧
  (∀ (s : State) (b : Byte), s.err = true → exec (.absorb b) s = .next s) ∧
  ∀ (s : State) (b : Byte), s.err = false →
    (∀ v, s.phase = .absorbing → s.var = .sel v → fill v s.len + 1 < blockBytes v →
      exec (.absorb b) s = .next { s with
        buf := Memory.write s.buf (fill v s.len) b, len := s.len + 8#128 }) ∧
    (∀ v block, s.phase = .absorbing → s.var = .sel v → fill v s.len + 1 = blockBytes v →
      block.length = blockBytes v →
      (∀ i, i < blockBytes v → Memory.read (Memory.write s.buf (fill v s.len) b) i = block[i]?) →
      ∃ ws r, exec (.absorb b) s = .next { s with
        buf := Memory.write s.buf (fill v s.len) b, len := s.len + 8#128,
        schedule := ws, rounds := r, hash := compressBlock v s.hash block }) ∧
    (s.phase ≠ .absorbing →
      exec (.absorb b) s = .next { s with err := true, errCode := 4#3 })

/-- R107: FINISH pads the bytes `pre` of the incomplete block, folds the last block or two into H,
formats, and goes to DONE; out of phase it is refused with code 4, and with `ERR = 1` it is dropped.
The bytes below `fill` hold a value in every reachable state (R38 (4), the invariant
StepKeepsTheInvariant). -/
def Obligations.FinishPadsAndFormats : Prop :=
  decode 0x4000#16 = .ok .finish ∧
  (∀ s : State, s.err = true → exec .finish s = .next s) ∧
  ∀ s : State, s.err = false →
    (∀ v pre, s.phase = .absorbing → s.var = .sel v → pre.length = fill v s.len →
      (∀ i, i < pre.length → Memory.read s.buf i = pre[i]?) →
      ∃ t, exec .finish s = .next t ∧
        t.hash = (finalBlocks v pre s.len).foldl (compressBlock v) s.hash ∧
        (∀ i, i < blockBytes v →
          Memory.read t.buf i = ((finalBlocks v pre s.len).getLastD [])[i]?) ∧
        (∀ i, Memory.read t.digest i = (formatDigest v t.hash)[i]?) ∧
        t.phase = .done ∧ t.var = s.var ∧ t.len = s.len ∧ t.err = false ∧
        t.errCode = s.errCode ∧ t.out = s.out ∧ t.port = s.port) ∧
    (s.phase ≠ .absorbing → exec .finish s = .next { s with err := true, errCode := 4#3 })

/-- R167: READ answers the digest byte and writes nothing; code 4 outside DONE, code 5 at or beyond
DL; with `ERR = 1` it is dropped. The byte holds a value in every reachable state (R32, the invariant
StepKeepsTheInvariant). -/
def Obligations.ReadAnswersADigestByte : Prop :=
  (∀ i : BitVec 6, decode (0x5000#16 + i.setWidth 16) = .ok (.read i)) ∧
  (∀ (s : State) (i : BitVec 6), s.err = true → exec (.read i) s = .next s) ∧
  ∀ (s : State) (i : BitVec 6), s.err = false →
    (∀ v b, s.phase = .done → s.var = .sel v → i.toNat < digestBytes v →
      Memory.read s.digest i.toNat = some b →
      exec (.read i) s = .next { s with out := s.out ++ [b] }) ∧
    (s.phase ≠ .done → exec (.read i) s = .next { s with err := true, errCode := 4#3 }) ∧
    (∀ v, s.phase = .done → s.var = .sel v → digestBytes v ≤ i.toNat →
      exec (.read i) s = .next { s with err := true, errCode := 5#3 })

/-- R183, R24: STATUS answers in every phase, with `ERR = 0` or `1`, and writes nothing; `0x6001` is
not STATUS. -/
def Obligations.StatusAnswersTheView : Prop :=
  decode 0x6000#16 = .ok .status ∧ decode 0x6001#16 = .error .reservedNonzero ∧
  ∀ s : State, ∃ b : Byte, exec .status s = .next { s with out := s.out ++ [b] } ∧
    b.toNat = s.errCode.toNat * 32 + (if s.err then 16 else 0) + (varCode s.var).toNat * 4
      + (phaseCode s.phase).toNat

/-- The codes of PHASE and VAR (R21, R22): PHASE code 3 is never held, VAR code 3 is NONE. -/
def Obligations.ControlRegisterCodes : Prop :=
  phaseCode .idle = 0#2 ∧ phaseCode .absorbing = 1#2 ∧ phaseCode .done = 2#2 ∧
  (∀ p, phaseCode p ≠ 3#2) ∧
  varCode (.sel .sha256) = 0#2 ∧ varCode (.sel .sha384) = 1#2 ∧ varCode (.sel .sha512) = 2#2 ∧
  varCode .none = 3#2

/-- R24: the status values the host can ever see. -/
def Obligations.StatusValuesTheHostCanSee : Prop :=
  ∀ s : State, State.Inv s →
    statusByte s ∈ [0x0C#8, 0x01#8, 0x05#8, 0x09#8, 0x02#8, 0x06#8, 0x0A#8] ∨
    (∃ base ∈ [0x0C#8, 0x01#8, 0x05#8, 0x09#8, 0x02#8, 0x06#8, 0x0A#8],
      ∃ e ∈ [0x30#8, 0x50#8, 0x70#8, 0x90#8], statusByte s = base + e) ∨
    (∃ base ∈ [0x02#8, 0x06#8, 0x0A#8], statusByte s = base + 0xB0#8)

/-- R22: the transitions of PHASE, and no others. -/
def Obligations.PhaseMovesOnlyAsListed : Prop :=
  ∀ s t : State, step s = .next t →
    t.phase = s.phase ∨
    (∃ rest, (s.port = .rst :: rest ∨ s.port = .word 0x1000#16 :: rest) ∧ t.phase = .idle) ∨
    (∃ v rest, s.err = false ∧ s.port = .word (encode (startOf v)) :: rest ∧
      t.phase = .absorbing) ∨
    (∃ rest, s.err = false ∧ s.phase = .absorbing ∧ s.port = .word 0x4000#16 :: rest ∧
      t.phase = .done)

/-- R21: VAR is written by START and by reset, and by nothing else. -/
def Obligations.VarMovesOnlyAtStartAndReset : Prop :=
  ∀ s t : State, step s = .next t →
    t.var = s.var ∨
    (∃ rest, (s.port = .rst :: rest ∨ s.port = .word 0x1000#16 :: rest) ∧ t.var = .none) ∨
    (∃ v rest, s.err = false ∧ s.port = .word (encode (startOf v)) :: rest ∧ t.var = .sel v)

/-- R25: who writes LEN and what: START 0, each accepted ABSORB 8 more modulo 2^128, nothing else
(after a reset it holds no value). -/
def Obligations.LenIsWrittenByStartAndAbsorb : Prop :=
  ∀ (i : Instr) (s t : State), exec i s = .next t → i ≠ .reset →
    t.len = s.len ∨
    ((∃ v, i = startOf v) ∧ s.err = false ∧ t.len = 0#128) ∨
    ((∃ b, i = .absorb b) ∧ s.err = false ∧ s.phase = .absorbing ∧
      t.len.toNat = (s.len.toNat + 8) % 2 ^ 128)

/-- R76: READ and STATUS respond, one byte, when they are accepted; nothing else responds. -/
def Obligations.OnlyReadAndStatusRespond : Prop :=
  (∀ (i : Instr) (s t : State), exec i s = .next t →
    t.out = s.out ∨
    (i = .status ∧ t.out = s.out ++ [statusByte s]) ∨
    (∃ k b, i = .read k ∧ s.err = false ∧ t.err = false ∧
      Memory.read s.digest k.toNat = some b ∧ t.out = s.out ++ [b])) ∧
  (∀ s t : State, step s = .next t → s.err = false → t.err = true → t.out = s.out)

/-! ## Frames -/

/-- What READ and STATUS leave unchanged (R37, R56): all but the response, and, for a refused READ,
ERR and ERRCODE. -/
def Obligations.ReadAndStatusFrame : Prop :=
  (∀ s t : State, exec .status s = .next t → t = { s with out := t.out }) ∧
  (∀ (k : BitVec 6) (s t : State), exec (.read k) s = .next t →
    (t = { s with out := t.out } ∨ t = { s with err := true, errCode := t.errCode }) ∧
    (∀ i, Memory.read t.buf i = Memory.read s.buf i) ∧
    (∀ i, Memory.read t.digest i = Memory.read s.digest i))

/-- What the three STARTs leave unchanged (R37, R166): ERR, ERRCODE, every byte of BUF, a..h, W and
the ports; under lockout, everything. -/
def Obligations.StartFrame : Prop :=
  ∀ (i : Instr) (s t : State), i ∈ [Instr.startSha256, .startSha384, .startSha512] →
    exec i s = .next t →
    t.err = s.err ∧ t.errCode = s.errCode ∧ t.rounds = s.rounds ∧ t.schedule = s.schedule ∧
    t.port = s.port ∧ t.out = s.out ∧ t.fresh = s.fresh ∧
    (∀ a, Memory.read t.buf a = Memory.read s.buf a) ∧ (s.err = true → t = s)

/-- What ABSORB leaves unchanged (R37, R106): PHASE, VAR, DIGEST and the ports; every byte of BUF
but the one at `fill`; H, a..h and W unless the block fills; ERR and ERRCODE unless it is refused,
and then all the rest. -/
def Obligations.AbsorbFrame : Prop :=
  ∀ (b : Byte) (s t : State), exec (.absorb b) s = .next t →
    t.phase = s.phase ∧ t.var = s.var ∧ t.port = s.port ∧ t.out = s.out ∧ t.fresh = s.fresh ∧
    (∀ a, Memory.read t.digest a = Memory.read s.digest a) ∧
    (∀ v, s.var = .sel v → ∀ a, a ≠ fill v s.len → Memory.read t.buf a = Memory.read s.buf a) ∧
    (∀ v, s.var = .sel v → fill v s.len + 1 ≠ blockBytes v →
      t.hash = s.hash ∧ t.rounds = s.rounds ∧ t.schedule = s.schedule) ∧
    ((t.err = s.err ∧ t.errCode = s.errCode) ∨
      t = { s with err := true, errCode := t.errCode }) ∧
    (s.err = true → t = s)

/-- What FINISH leaves unchanged (R37, R107): VAR, LEN and the ports; of BUF every byte from B up,
and, where the suffix fits, every byte below `fill`; of DIGEST nothing is left beyond DL; ERR and
ERRCODE unless it is refused, and then all the rest. -/
def Obligations.FinishFrame : Prop :=
  ∀ s t : State, exec .finish s = .next t →
    t.var = s.var ∧ t.len = s.len ∧ t.port = s.port ∧ t.out = s.out ∧ t.fresh = s.fresh ∧
    (∀ v, s.var = .sel v → ∀ a, blockBytes v ≤ a →
      Memory.read t.buf a = Memory.read s.buf a) ∧
    (∀ v, s.var = .sel v → fill v s.len < blockBytes v - suffixBytes v → ∀ a, a < fill v s.len →
      Memory.read t.buf a = Memory.read s.buf a) ∧
    (∀ v, s.var = .sel v → t.phase = .done → s.phase = .absorbing → ∀ a, digestBytes v ≤ a →
      Memory.read t.digest a = none) ∧
    ((t.err = s.err ∧ t.errCode = s.errCode) ∨
      t = { s with err := true, errCode := t.errCode }) ∧
    (s.err = true → t = s)

/-- The short track never writes BUF[64..127] (R27), whatever the step, reset apart. -/
def Obligations.ShortTrackKeepsTheUpperHalfOfBuf : Prop :=
  ∀ (i : Instr) (s t : State), exec i s = .next t → i ≠ .reset → s.var = .sel .sha256 →
    ∀ a, 64 ≤ a → Memory.read t.buf a = Memory.read s.buf a

/-- A processed block leaves its schedule in W, the first `Rn` words, and the short track never
writes W[64..79] (R30, R130). That W keeps the words between commands is the model's (log 8). -/
def Obligations.ProcessedBlockFillsTheSchedule : Prop :=
  ∀ (s t : State) (v : Variant) (block : List Byte), processBlock v s = .ok t →
    Memory.readRange s.buf 0 (blockBytes v) = .ok block →
    (trackOf v = .short →
      (∀ i, i < 64 → t.schedule[i]? =
        ((expand shortTrack (decodeBlock 32 block))[i]?).map (·.setWidth 64)) ∧
      (∀ i, 64 ≤ i → t.schedule[i]? = s.schedule[i]?)) ∧
    (trackOf v = .long →
      ∀ i, i < 80 → t.schedule[i]? = (expand longTrack (decodeBlock 64 block))[i]?)

/-! ## Invariants -/

/-- The invariant holds after reset. -/
def Obligations.InvariantHoldsAtReset : Prop := State.Inv State.reset

/-- R38: every step keeps the invariant. -/
def Obligations.StepKeepsTheInvariant : Prop :=
  ∀ s t : State, State.Inv s → step s = .next t → State.Inv t

/-- R109, R182, R190: where the invariant holds, every step completes, whatever the port shows: no
byte that holds no value is read and no command stops. -/
def Obligations.EveryStepCompletesUnderTheInvariant : Prop :=
  ∀ s : State, State.Inv s → ∃ t, step s = .next t

/-- No step answers a refusal of the model (R74: no word's behaviour is left open). -/
def Obligations.NoStepIsRefusedByTheModel : Prop :=
  ∀ (s : State) (r : Refusal), step s ≠ .refused r

/-- R36, R29, R30, V1: no step reads a register that holds no value. Two states that agree wherever
a register holds a value step to outcomes that agree likewise, whatever stands in a..h, W, the
counter of resets, and, while IDLE, in LEN and H. -/
def Obligations.NoStepReadsAValuelessRegister : Prop :=
  ∀ s t : State, State.SameValues s t → SameOutcome (step s) (step t)

/-! ## The functions of the document -/

/-- R10: big-endian conversion and its inverse. -/
def Obligations.BigEndianConversionInverts : Prop :=
  (∀ n x k, k < n → (bytesBE n x)[k]? = some (BitVec.ofNat 8 (x / 2 ^ (8 * (n - 1 - k))))) ∧
  (∀ n x, (bytesBE n x).length = n) ∧
  (∀ n x, x < 2 ^ (8 * n) → natBE (bytesBE n x) = x) ∧
  (∀ A : List Byte, bytesBE A.length (natBE A) = A) ∧
  bytesBE 4 0x61626380 = [0x61#8, 0x62#8, 0x63#8, 0x80#8] ∧
  natBE [0x00#8, 0x00#8, 0x00#8, 0x18#8] = 24

/-- R26: `fill` as bits of LEN, its range, and its value for a message of any length. -/
def Obligations.FillIsThePlaceInTheBlock : Prop :=
  (∀ len : BitVec 128, fill .sha256 len = (len.extractLsb' 3 6).toNat) ∧
  (∀ len : BitVec 128, fill .sha384 len = (len.extractLsb' 3 7).toNat) ∧
  (∀ len : BitVec 128, fill .sha512 len = (len.extractLsb' 3 7).toNat) ∧
  (∀ v len, fill v len < blockBytes v) ∧
  (∀ v (n : Nat), fill v (BitVec.ofNat 128 (8 * n)) = n % blockBytes v)

/-- R101: the zero-fill count is the unique value in `[0, B)` that completes the block, by `r`. -/
def Obligations.ZeroFillCountIsUnique : Prop :=
  ∀ (v : Variant) (n : Nat),
    zeroFillCount v n < blockBytes v ∧
    (n + 1 + zeroFillCount v n + suffixBytes v) % blockBytes v = 0 ∧
    (∀ z, z < blockBytes v → (n + 1 + z + suffixBytes v) % blockBytes v = 0 →
      z = zeroFillCount v n) ∧
    (n % blockBytes v ≤ blockBytes v - suffixBytes v - 1 →
      zeroFillCount v n = blockBytes v - suffixBytes v - 1 - n % blockBytes v) ∧
    (blockBytes v - suffixBytes v ≤ n % blockBytes v →
      zeroFillCount v n = 2 * blockBytes v - suffixBytes v - 1 - n % blockBytes v)

/-- R103: the shape of a padded message. -/
def Obligations.PaddedMessageIsWholeBlocks : Prop :=
  ∀ (v : Variant) (m : List Byte),
    (pad v m).length =
      (m.length + suffixBytes v + 1 + (blockBytes v - 1)) / blockBytes v ∧
    (∀ X ∈ pad v m, X.length = blockBytes v) ∧
    (pad v m).flatten = padStream v m ∧
    (padStream v m).length = m.length + 1 + zeroFillCount v m.length + suffixBytes v ∧
    (pad v m).length = (if m.length % blockBytes v ≤ blockBytes v - suffixBytes v - 1
      then m.length / blockBytes v + 1 else m.length / blockBytes v + 2) ∧
    1 ≤ (pad v m).length

/-- R100, R104: `pad(m)` is the complete blocks of the message, in order, and then one or two final
blocks, made of the bytes left over, the terminator, zeros and the suffix. It is about `pad` alone;
SessionProcessesThePaddedBlocks ties it to the commands. -/
def Obligations.PadIsCompleteThenFinalBlocks : Prop :=
  ∀ (v : Variant) (m : List Byte),
    pad v m = completeBlocks v m ++
      finalBlocks v (lastBytes v m) (BitVec.ofNat 128 (8 * m.length))

/-- R105: the corner cases of `pad`: variant of the track, length, zero-fill, blocks. -/
def Obligations.PadCornerCases : Prop :=
  ∀ row ∈ [(Variant.sha256, 0, 55, 1), (.sha256, 3, 52, 1), (.sha256, 55, 0, 1),
      (.sha256, 56, 63, 2), (.sha256, 63, 56, 2), (.sha256, 64, 55, 2), (.sha256, 119, 0, 2),
      (.sha256, 120, 63, 3), (.sha512, 0, 111, 1), (.sha512, 3, 108, 1), (.sha512, 111, 0, 1),
      (.sha512, 112, 127, 2), (.sha512, 127, 112, 2), (.sha512, 128, 111, 2),
      (.sha512, 239, 0, 2), (.sha512, 240, 127, 3)],
    zeroFillCount row.1 row.2.1 = row.2.2.1 ∧
    (row.2.1 + 1 + row.2.2.1 + suffixBytes row.1) / blockBytes row.1 = row.2.2.2 ∧
    lengthSuffix row.1 row.2.1 = bytesBE (suffixBytes row.1) (8 * row.2.1)

/-- R110, R80: the length suffix wraps at 2^64 and 2^128 bits, and LEN gives the same value. -/
def Obligations.LengthSuffixWraps : Prop :=
  lengthSuffix .sha256 (2 ^ 61) = zeros 8 ∧ lengthSuffix .sha256 (2 ^ 61 + 3) = lengthSuffix .sha256 3 ∧
  natBE (lengthSuffix .sha512 (2 ^ 61)) = 2 ^ 64 ∧ lengthSuffix .sha512 (2 ^ 125) = zeros 16 ∧
  (∀ v n, natBE (lengthSuffix v n) = 8 * n % 2 ^ (8 * suffixBytes v)) ∧
  (∀ v n, suffixValue v (BitVec.ofNat 128 (8 * n)) = 8 * n % 2 ^ (8 * suffixBytes v))

/-- R121: `decode` is a bijection between blocks of B bytes and 16-tuples of words. -/
def Obligations.BlockDecoderIsABijection : Prop :=
  (∀ block : List Byte, block.length = 64 →
    (decodeBlock 32 block).length = 16 ∧
    (decodeBlock 32 block).flatMap (fun x => bytesBE 4 x.toNat) = block) ∧
  (∀ block : List Byte, block.length = 128 →
    (decodeBlock 64 block).length = 16 ∧
    (decodeBlock 64 block).flatMap (fun x => bytesBE 8 x.toNat) = block) ∧
  (∀ m : List (BitVec 32), m.length = 16 →
    decodeBlock 32 (m.flatMap fun x => bytesBE 4 x.toNat) = m) ∧
  (∀ m : List (BitVec 64), m.length = 16 →
    decodeBlock 64 (m.flatMap fun x => bytesBE 8 x.toNat) = m)

/-- R130: the schedule's first sixteen words are the block's, each later word is the sum of R130, and
an all-zero block has an all-zero schedule; on both tracks. -/
def Obligations.ScheduleFollowsItsRecurrence : Prop :=
  (∀ m : List (BitVec 32), m.length = 16 →
    (expand shortTrack m).length = 64 ∧
    (∀ i, i < 16 → (expand shortTrack m)[i]? = m[i]?) ∧
    (∀ i, 16 ≤ i → i < 64 → wordAt (expand shortTrack m) i =
      wordAt (expand shortTrack m) (i - 16) + s0 shortTrack (wordAt (expand shortTrack m) (i - 15))
        + wordAt (expand shortTrack m) (i - 7)
        + s1 shortTrack (wordAt (expand shortTrack m) (i - 2)))) ∧
  (∀ m : List (BitVec 64), m.length = 16 →
    (expand longTrack m).length = 80 ∧
    (∀ i, i < 16 → (expand longTrack m)[i]? = m[i]?) ∧
    (∀ i, 16 ≤ i → i < 80 → wordAt (expand longTrack m) i =
      wordAt (expand longTrack m) (i - 16) + s0 longTrack (wordAt (expand longTrack m) (i - 15))
        + wordAt (expand longTrack m) (i - 7)
        + s1 longTrack (wordAt (expand longTrack m) (i - 2)))) ∧
  expand shortTrack (List.replicate 16 0#32) = List.replicate 64 0#32 ∧
  expand longTrack (List.replicate 16 0#64) = List.replicate 80 0#64

/-- R131 to R134, R142 to R145: the mixing functions by the rotation of BitVec, with the examples
the rules print. -/
def Obligations.MixingFunctionsHaveTheirAmounts : Prop :=
  (∀ x, s0 shortTrack x = x.rotateRight 7 ^^^ x.rotateRight 18 ^^^ (x >>> 3)) ∧
  (∀ x, s1 shortTrack x = x.rotateRight 17 ^^^ x.rotateRight 19 ^^^ (x >>> 10)) ∧
  (∀ x, s0 longTrack x = x.rotateRight 1 ^^^ x.rotateRight 8 ^^^ (x >>> 7)) ∧
  (∀ x, s1 longTrack x = x.rotateRight 19 ^^^ x.rotateRight 61 ^^^ (x >>> 6)) ∧
  (∀ x, bigSigma1 shortTrack x = x.rotateRight 6 ^^^ x.rotateRight 11 ^^^ x.rotateRight 25) ∧
  (∀ x, bigSigma1 longTrack x = x.rotateRight 14 ^^^ x.rotateRight 18 ^^^ x.rotateRight 41) ∧
  (∀ x, bigSigma0 shortTrack x = x.rotateRight 2 ^^^ x.rotateRight 13 ^^^ x.rotateRight 22) ∧
  (∀ x, bigSigma0 longTrack x = x.rotateRight 28 ^^^ x.rotateRight 34 ^^^ x.rotateRight 39) ∧
  s0 shortTrack 0#32 = 0#32 ∧ s0 shortTrack 0x00000001#32 = 0x02004000#32 ∧
  s0 shortTrack 0x80000000#32 = 0x11002000#32 ∧
  s0 shortTrack 0xffffffff#32 = 0x1fffffff#32 ∧
  s0 shortTrack 0x61626380#32 = 0x940e90ef#32 ∧
  s1 shortTrack 0#32 = 0#32 ∧ s1 shortTrack 0x00000001#32 = 0x0000a000#32 ∧
  s1 shortTrack 0x80000000#32 = 0x00205000#32 ∧
  s1 shortTrack 0xffffffff#32 = 0x003fffff#32 ∧
  s1 shortTrack 0x00000018#32 = 0x000f0000#32 ∧
  s0 longTrack 0#64 = 0#64 ∧ s0 longTrack 0x0000000000000001#64 = 0x8100000000000000#64 ∧
  s0 longTrack 0x8000000000000000#64 = 0x4180000000000000#64 ∧
  s0 longTrack 0xffffffffffffffff#64 = 0x01ffffffffffffff#64 ∧
  s0 longTrack 0x6162638000000000#64 = 0x3012976480000000#64 ∧
  s1 longTrack 0#64 = 0#64 ∧ s1 longTrack 0x0000000000000001#64 = 0x0000200000000008#64 ∧
  s1 longTrack 0x8000000000000000#64 = 0x0200100000000004#64 ∧
  s1 longTrack 0xffffffffffffffff#64 = 0x03ffffffffffffff#64 ∧
  s1 longTrack 0x0000000000000018#64 = 0x00030000000000c0#64 ∧
  bigSigma1 shortTrack 0#32 = 0#32 ∧ bigSigma1 shortTrack 0xffffffff#32 = 0xffffffff#32 ∧
  bigSigma1 shortTrack 0x00000001#32 = 0x04200080#32 ∧
  bigSigma1 shortTrack 0x80000000#32 = 0x02100040#32 ∧
  bigSigma1 shortTrack 0x510e527f#32 = 0x3587272b#32 ∧
  bigSigma1 longTrack 0#64 = 0#64 ∧ bigSigma1 longTrack 0xffffffffffffffff#64 = 0xffffffffffffffff#64 ∧
  bigSigma1 longTrack 0x0000000000000001#64 = 0x0004400000800000#64 ∧
  bigSigma1 longTrack 0x8000000000000000#64 = 0x0002200000400000#64 ∧
  bigSigma1 longTrack 0x510e527fade682d1#64 = 0x9427e33bb5c9dbca#64 ∧
  bigSigma0 shortTrack 0#32 = 0#32 ∧ bigSigma0 shortTrack 0xffffffff#32 = 0xffffffff#32 ∧
  bigSigma0 shortTrack 0x00000001#32 = 0x40080400#32 ∧
  bigSigma0 shortTrack 0x80000000#32 = 0x20040200#32 ∧
  bigSigma0 shortTrack 0x6a09e667#32 = 0xce20b47e#32 ∧
  bigSigma0 longTrack 0#64 = 0#64 ∧ bigSigma0 longTrack 0xffffffffffffffff#64 = 0xffffffffffffffff#64 ∧
  bigSigma0 longTrack 0x0000000000000001#64 = 0x0000001042000000#64 ∧
  bigSigma0 longTrack 0x8000000000000000#64 = 0x0000000821000000#64 ∧
  bigSigma0 longTrack 0x6a09e667f3bcc908#64 = 0x08c4db56aac80c2a#64

/-- R146, R147: each bit of `Ch` is chosen by `e`, each bit of `Maj` is the majority, at any width;
`or` may stand for the `xor` of `Ch`; and the examples the rules print. -/
def Obligations.ChooseAndMajorityBitwise : Prop :=
  (∀ (w : Nat) (e f g : BitVec w) (i : Nat),
    (ch e f g).getLsbD i = if e.getLsbD i then f.getLsbD i else g.getLsbD i) ∧
  (∀ (w : Nat) (e f g : BitVec w), ch e f g = (e &&& f) ||| (~~~e &&& g)) ∧
  (∀ (w : Nat) (a b c : BitVec w) (i : Nat),
    (maj a b c).getLsbD i = decide (2 ≤ (a.getLsbD i).toNat + (b.getLsbD i).toNat
      + (c.getLsbD i).toNat)) ∧
  (∀ f g : BitVec 32, ch 0#32 f g = g ∧ ch 0xffffffff#32 f g = f) ∧
  (∀ x y : BitVec 32, maj x x y = x ∧ maj 0#32 0xffffffff#32 y = y) ∧
  ch 0x510e527f#32 0x9b05688c#32 0x1f83d9ab#32 = 0x1f85c98c#32 ∧
  maj 0x6a09e667#32 0xbb67ae85#32 0x3c6ef372#32 = 0x3a6fe667#32

/-- R148 to R150: round 0 of "abc" on both tracks, with the values the rules print. -/
def Obligations.RoundZeroOfAbc : Prop :=
  roundT1 shortTrack iv256 0x428a2f98#32 0x61626380#32 = 0x54da50e8#32 ∧
  roundT2 shortTrack iv256 = 0x08909ae5#32 ∧
  Sys2Proof.Machine.round shortTrack iv256 (0x428a2f98#32, 0x61626380#32) =
    ⟨0x5d6aebcd#32, 0x6a09e667#32, 0xbb67ae85#32, 0x3c6ef372#32,
     0xfa2a4622#32, 0x510e527f#32, 0x9b05688c#32, 0x1f83d9ab#32⟩ ∧
  roundT1 longTrack iv512 0x428a2f98d728ae22#64 0x6162638000000000#64 = 0xb37b0cfa1b97e8a0#64 ∧
  roundT2 longTrack iv512 = 0x4334c1bea164f555#64 ∧
  Sys2Proof.Machine.round longTrack iv512 (0x428a2f98d728ae22#64, 0x6162638000000000#64) =
    ⟨0xf6afceb8bcfcddf5#64, 0x6a09e667f3bcc908#64, 0xbb67ae8584caa73b#64, 0x3c6ef372fe94f82b#64,
     0x58cb02347ab51f91#64, 0x510e527fade682d1#64, 0x9b05688c2b3e6c1f#64, 0x1f83d9abfb41bd6b#64⟩

/-- Whether `x` is the first `w` bits of the fractional part of the `k`-th root of `p`: with `q` the
whole part of the root, `c = q*2^w + x` is the whole part of the root of `p * 2^(k*w)`. -/
def Sys2Proof.isRootFraction (k w p x : Nat) : Bool :=
  (List.range 8).any fun q =>
    let c := q * 2 ^ w + x
    c ^ k ≤ p * 2 ^ (k * w) && p * 2 ^ (k * w) < (c + 1) ^ k

/-- R163 to R165: the initial values, as fractional parts of square roots of primes; the high
halves of IV512 are IV256. -/
def Obligations.InitialValuesAreSquareRoots : Prop :=
  ([2, 3, 5, 7, 11, 13, 17, 19].zip (wordsList iv256)).all
    (fun px => Sys2Proof.isRootFraction 2 32 px.1 px.2.toNat) = true ∧
  ([23, 29, 31, 37, 41, 43, 47, 53].zip (wordsList iv384)).all
    (fun px => Sys2Proof.isRootFraction 2 64 px.1 px.2.toNat) = true ∧
  ([2, 3, 5, 7, 11, 13, 17, 19].zip (wordsList iv512)).all
    (fun px => Sys2Proof.isRootFraction 2 64 px.1 px.2.toNat) = true ∧
  ((wordsList iv512).zip (wordsList iv256)).all
    (fun xy => xy.1.toNat / 2 ^ 32 == xy.2.toNat) = true

/-- The first 80 primes. -/
def Sys2Proof.firstPrimes : List Nat :=
  [2, 3, 5, 7, 11, 13, 17, 19, 23, 29, 31, 37, 41, 43, 47, 53, 59, 61, 67, 71,
   73, 79, 83, 89, 97, 101, 103, 107, 109, 113, 127, 131, 137, 139, 149, 151, 157, 163, 167, 173,
   179, 181, 191, 193, 197, 199, 211, 223, 227, 229, 233, 239, 241, 251, 257, 263, 269, 271, 277,
   281, 283, 293, 307, 311, 313, 317, 331, 337, 347, 349, 353, 359, 367, 373, 379, 383, 389, 397,
   401, 409]

/-- R153, R154: the round constants, 64 and 80 of them, as fractional parts of cube roots of the
first primes; the high halves of K512 are K256. -/
def Obligations.RoundConstantsAreCubeRoots : Prop :=
  k256.length = 64 ∧ k512.length = 80 ∧ Sys2Proof.firstPrimes.length = 80 ∧
  (Sys2Proof.firstPrimes.zip k256).all
    (fun px => Sys2Proof.isRootFraction 3 32 px.1 px.2.toNat) = true ∧
  (Sys2Proof.firstPrimes.zip k512).all
    (fun px => Sys2Proof.isRootFraction 3 64 px.1 px.2.toNat) = true ∧
  (k512.zip k256).all (fun xy => xy.1.toNat / 2 ^ 32 == xy.2.toNat) = true

/-- R160, R81: where each byte of the digest comes from, and the length by variant (R161). -/
def Obligations.DigestLayoutByVariant : Prop :=
  (∀ (v : Variant) (h : Words8 64) (j k : Nat), j < outWords v → k < wordBytes v →
    (formatDigest v h)[j * wordBytes v + k]? =
      ((wordsList h)[j]?).map fun x => BitVec.ofNat 8 (x.toNat / 2 ^ (8 * (wordBytes v - 1 - k)))) ∧
  (∀ v h, (formatDigest v h).length = digestBytes v) ∧
  digestBytes .sha256 = 32 ∧ digestBytes .sha384 = 48 ∧ digestBytes .sha512 = 64

/-- The 112 bytes of E3 of 95_test_vectors.md section 1: fourteen runs of eight letters, from
`abcdefgh`, `bcdefghi` to `nopqrstu`. -/
def Sys2Proof.twoBlockText : List Byte :=
  (List.range 14).flatMap fun i => (List.range 8).map fun j => BitVec.ofNat 8 (0x61 + i + j)

/-- The published pairs of 95_test_vectors.md section 1 (R187), as numbers whose digits are the
digest: "abc" under each variant (E1, E5), the 112-byte two-block message under Sha512 (E3), the
empty message under Sha384 (E4). -/
def Obligations.PublishedDigestsReproduced : Prop :=
  natBE (hashMessage .sha256 [0x61#8, 0x62#8, 0x63#8]) =
    0xba7816bf8f01cfea414140de5dae2223b00361a396177a9cb410ff61f20015ad ∧
  natBE (hashMessage .sha384 [0x61#8, 0x62#8, 0x63#8]) =
    0xcb00753f45a35e8bb5a03d699ac65007272c32ab0eded1631a8b605a43ff5bed8086072ba1e7cc2358baeca134c825a7 ∧
  natBE (hashMessage .sha512 [0x61#8, 0x62#8, 0x63#8]) =
    0xddaf35a193617abacc417349ae20413112e6fa4e89a97ea20a9eeee64b55d39a2192992a274fc1a836ba3c23a3feebbd454d4423643ce80e2a9ac94fa54ca49f ∧
  Sys2Proof.twoBlockText.length = 112 ∧
  natBE (hashMessage .sha512 Sys2Proof.twoBlockText) =
    0x8e959b75dae313da8cf4f72814fc143f8f7779c6eb9f7fa17299aeadb6889018501d289e4900f7e4331b99dec4b5433ac7d329eeb6dd26545e96e55b874be909 ∧
  natBE (hashMessage .sha384 []) =
    0x38b060a751ac96384cd9327eb1b1e36a21fdb71114be07434c0cc7bf63f6e1da274edebfe76f65fbd51ad2f14898b95b

/-! ## What the machine computes -/

/-- R38 (4), R185: after START and any number of ABSORBs, from any state with `ERR = 0`, LEN counts
the bits, BUF holds the bytes of the incomplete block, and H is the hash state after the complete
blocks. -/
def Obligations.AbsorbedBytesStandInLenBufAndHash : Prop :=
  ∀ (v : Variant) (m : List Byte) (s : State), s.err = false →
    ∃ t, runSteps (m.length + 1) { s with port := wordsOf (startOf v :: absorbs m) } = .next t ∧
      t.phase = .absorbing ∧ t.var = .sel v ∧ t.err = false ∧ t.port = [] ∧ t.out = s.out ∧
      t.len = BitVec.ofNat 128 (8 * m.length) ∧
      fill v t.len = (lastBytes v m).length ∧
      (∀ i, i < (lastBytes v m).length → Memory.read t.buf i = (lastBytes v m)[i]?) ∧
      t.hash = (completeBlocks v m).foldl (compressBlock v) (initialHash v)

/-- R185, the session theorem: from any state with `ERR = 0` a whole session is accepted and leaves
`hash(m, v)` in DIGEST, and a following READ answers its bytes; nothing from before matters. R185's
clause on interleaved STATUS and READ is InterleavedStatusAndReadKeepTheResult and
RefusedReadLocksTheSessionOut. -/
def Obligations.SessionDeliversTheHash : Prop :=
  ∀ (v : Variant) (m : List Byte) (s : State), s.err = false →
    (hashMessage v m).length = digestBytes v ∧
    ∃ t, runSteps (m.length + 2) { s with port := wordsOf (sessionScript v m) } = .next t ∧
      t.err = false ∧ t.phase = .done ∧ t.var = .sel v ∧ t.out = s.out ∧
      (∀ i, Memory.read t.digest i = (hashMessage v m)[i]?) ∧
      (∀ (i : BitVec 6) (b : Byte), (hashMessage v m)[i.toNat]? = some b →
        exec (.read i) t = .next { t with out := t.out ++ [b] })

/-- R108: in a session the contents of BUF[0..B-1] at the successive calls of ProcessBlock are
exactly `pad(m)`, block for block. The ABSORB that completes block `k / B` is the ProcessBlock of the
state that holds it, every other ABSORB calls none; FINISH is one ProcessBlock, of the last block, or
two, of the last two, and then the digest. -/
def Obligations.SessionProcessesThePaddedBlocks : Prop :=
  ∀ (v : Variant) (m : List Byte) (s : State), s.err = false →
    (∀ (k : Nat) (b : Byte), m[k]? = some b →
      ∃ t u, runSteps (k + 1) { s with port := wordsOf (sessionScript v m) } = .next t ∧
        u = { t with
          buf := Memory.write t.buf (k % blockBytes v) b
          len := t.len + 8#128
          port := t.port.tail } ∧
        if (k + 1) % blockBytes v = 0 then
          ∃ X, (pad v m)[k / blockBytes v]? = some X ∧
            Memory.readRange u.buf 0 (blockBytes v) = .ok X ∧
            step t = outcomeOf (processBlock v u)
        else step t = .next u) ∧
    ∃ t, runSteps (m.length + 1) { s with port := wordsOf (sessionScript v m) } = .next t ∧
      if m.length % blockBytes v < blockBytes v - suffixBytes v then
        ∃ X buf d, (pad v m).length = m.length / blockBytes v + 1 ∧
          (pad v m)[m.length / blockBytes v]? = some X ∧
          Memory.readRange buf 0 (blockBytes v) = .ok X ∧
          processBlock v { t with buf := buf, port := [] } = .ok d ∧
          step t = .next (storeDigest (formatDigest v d.hash) d)
      else
        ∃ X Y bufX bufY c d, (pad v m).length = m.length / blockBytes v + 2 ∧
          (pad v m)[m.length / blockBytes v]? = some X ∧
          (pad v m)[m.length / blockBytes v + 1]? = some Y ∧
          Memory.readRange bufX 0 (blockBytes v) = .ok X ∧
          processBlock v { t with buf := bufX, port := [] } = .ok c ∧
          Memory.readRange bufY 0 (blockBytes v) = .ok Y ∧
          processBlock v { c with buf := bufY } = .ok d ∧
          step t = .next (storeDigest (formatDigest v d.hash) d)

/-- The STATUS values of R24 while a message of `v` is absorbed with `ERR = 0`. -/
def Sys2Proof.absorbingStatus : Variant → Byte
  | .sha256 => 0x01#8
  | .sha384 => 0x05#8
  | .sha512 => 0x09#8

/-- The STATUS values of R24 once a session of `v` is done with `ERR = 0`. -/
def Sys2Proof.doneStatus : Variant → Byte
  | .sha256 => 0x02#8
  | .sha384 => 0x06#8
  | .sha512 => 0x0A#8

/-- What STATUS (R183) and an accepted READ (R167) respond once the session of `m` is done. -/
def Sys2Proof.doneResponse (v : Variant) (m : List Byte) (i : Instr) : Byte :=
  match i with
  | .read k => (hashMessage v m).getD k.toNat 0#8
  | _ => Sys2Proof.doneStatus v

/-- R185: STATUS interleaved anywhere in a session, and STATUS and READ of digest bytes once it is
DONE, do not change the result: the state is that of the plain session but for the responses, which
are the STATUS values of R24 and the digest bytes asked for, in order. That ERRCODE is 0 where ERR is
(R23, R38 (2)) is the clause `err_iff` of the invariant StepKeepsTheInvariant. -/
def Obligations.InterleavedStatusAndReadKeepTheResult : Prop :=
  ∀ (v : Variant) (m : List Byte) (inner post : List Instr) (s : State),
    s.err = false → s.errCode = 0#3 →
    inner.filter (· ≠ .status) = absorbs m →
    (∀ i ∈ post, i = .status ∨ ∃ k, i = .read k ∧ k.toNat < digestBytes v) →
    ∃ plain t, runSteps (m.length + 2) { s with port := wordsOf (sessionScript v m) } =
        .next plain ∧
      runSteps (inner.length + 2)
        { s with port := wordsOf (startOf v :: (inner ++ [.finish])) } = .next t ∧
      t = { plain with
        out := s.out ++ List.replicate (inner.count .status) (Sys2Proof.absorbingStatus v) } ∧
      (∀ i, Memory.read t.digest i = (hashMessage v m)[i]?) ∧
      runSteps (inner.length + 2 + post.length)
        { s with port := wordsOf (startOf v :: (inner ++ .finish :: post)) } =
          .next { t with out := t.out ++ post.map (Sys2Proof.doneResponse v m) }

/-- R185, R191, R194: a READ that is refused sets ERR and locks the session out: code 4 inside the
message, code 5 in DONE beyond the digest. What follows, up to a reset, changes nothing and gets no
response but the STATUS byte, so no byte of the digest. -/
def Obligations.RefusedReadLocksTheSessionOut : Prop :=
  ∀ (v : Variant) (k : BitVec 6) (inner rest : List Instr) (s : State), s.err = false →
    (∀ i ∈ inner, i = .status ∨ ∃ b, i = .absorb b) → Instr.reset ∉ rest →
    (∃ t, runSteps (inner.length + 2)
        { s with port := wordsOf (startOf v :: (inner ++ [.read k])) } = .next t ∧
      t.phase = .absorbing ∧ t.err = true ∧ t.errCode = 4#3 ∧
      runSteps rest.length { t with port := wordsOf rest } =
        .next { t with out := t.out ++ List.replicate (rest.count Instr.status) (statusByte t) }) ∧
    (digestBytes v ≤ k.toNat →
      ∃ t, runSteps (inner.length + 3)
          { s with port := wordsOf (startOf v :: (inner ++ [.finish, .read k])) } = .next t ∧
        t.phase = .done ∧ t.err = true ∧ t.errCode = 5#3 ∧
        runSteps rest.length { t with port := wordsOf rest } =
          .next { t with out := t.out ++ List.replicate (rest.count Instr.status) (statusByte t) })

/-- R186: the responses of `HASH v, msg`, in order, are the digest. -/
def Obligations.HashScriptRespondsTheDigest : Prop :=
  ∀ (v : Variant) (m : List Byte) (s : State), s.err = false →
    ∃ t, runSteps (m.length + 2 + digestBytes v) { s with port := wordsOf (hashScript v m) } =
        .next t ∧
      t.out = s.out ++ hashMessage v m ∧ t.err = false ∧ t.phase = .done
end

