-- ==== Sys2Proof/Laws/Memory.lean ====
section
/-!
SUPPORT. The laws of the byte-indexed spaces: a read after a write, that every operation keeps the
canonical form, and what a run of reads or writes does, once each.
-/

namespace Sys2Proof.Machine

/-- A read after a write: the byte written there, what was there elsewhere. -/
theorem Memory.read_write (m : Memory) (a i : Nat) (b : Byte) :
    Memory.read (Memory.write m a b) i = if i = a then some b else Memory.read m i := by
  rcases eq_or_ne i a with rfl | h
  · rw [if_pos rfl]
    induction m with
    | nil => simp [Memory.write, Memory.read]
    | cons c rest ih =>
      obtain ⟨k, v⟩ := c
      simp only [Memory.write]
      split
      · simp [Memory.read]
      · split
        · simp [Memory.read]
        · rename_i hk
          simp [Memory.read, Ne.symm hk, ih]
  · rw [if_neg h]
    induction m with
    | nil => simp [Memory.write, Memory.read, Ne.symm h]
    | cons c rest ih =>
      obtain ⟨k, v⟩ := c
      simp only [Memory.write]
      split
      · simp [Memory.read, Ne.symm h]
      · split
        · rename_i hk
          simp [Memory.read, ← hk, Ne.symm h]
        · simp [Memory.read, ih]

@[simp] theorem Memory.read_write_same (m : Memory) (a : Nat) (b : Byte) :
    Memory.read (Memory.write m a b) a = some b := by simp [Memory.read_write]

theorem Memory.read_write_other (m : Memory) {a i : Nat} (b : Byte) (h : i ≠ a) :
    Memory.read (Memory.write m a b) i = Memory.read m i := by simp [Memory.read_write, h]

/-- A write lists nothing but the byte written and what was listed. -/
theorem Memory.mem_write {m : Memory} {a : Nat} {b : Byte} {x : Host.Cell}
    (h : x ∈ Memory.write m a b) : x = (a, b) ∨ x ∈ m := by
  induction m with
  | nil => simpa [Memory.write] using h
  | cons c rest ih =>
    obtain ⟨k, v⟩ := c
    simp only [Memory.write] at h
    split at h
    · simpa using h
    · split at h
      · rcases List.mem_cons.1 h with h | h
        · exact .inl h
        · exact .inr (List.mem_cons_of_mem _ h)
      · rcases List.mem_cons.1 h with h | h
        · exact .inr (h ▸ List.mem_cons_self)
        · exact (ih h).imp_right (List.mem_cons_of_mem _)

/-- A write keeps the canonical form. -/
theorem Memory.wf_write {m : Memory} (a : Nat) (b : Byte) (h : Memory.wf m) :
    Memory.wf (Memory.write m a b) := by
  induction m with
  | nil => simp [Memory.write, Memory.wf]
  | cons c rest ih =>
    obtain ⟨k, v⟩ := c
    obtain ⟨hk, hr⟩ := List.pairwise_cons.1 h
    simp only [Memory.write]
    split
    · rename_i hlt
      refine List.pairwise_cons.2 ⟨fun x hx => ?_, h⟩
      rcases List.mem_cons.1 hx with rfl | hx
      · exact hlt
      · exact lt_trans hlt (hk x hx)
    · rename_i hlt
      split
      · rename_i he
        subst he
        exact List.pairwise_cons.2 ⟨hk, hr⟩
      · rename_i hne
        refine List.pairwise_cons.2 ⟨fun x hx => ?_, ih hr⟩
        rcases Memory.mem_write hx with rfl | hx
        · show k < a
          omega
        · exact hk x hx

/-- A run of writes keeps the canonical form. -/
theorem Memory.wf_writeBytes {m : Memory} (addr : Nat) (bs : List Byte) (h : Memory.wf m) :
    Memory.wf (Memory.writeBytes m addr bs) := by
  induction bs generalizing m addr with
  | nil => exact h
  | cons b bs ih => exact ih (addr + 1) (Memory.wf_write addr b h)

theorem Memory.wf_writeBE {m : Memory} (addr n v : Nat) (h : Memory.wf m) :
    Memory.wf (Memory.writeBE m addr n v) := Memory.wf_writeBytes addr _ h

theorem Memory.wf_zeroFill {m : Memory} (addr n : Nat) (h : Memory.wf m) :
    Memory.wf (Memory.zeroFill m addr n) := Memory.wf_writeBytes addr _ h

/-- A run of writes lists nothing outside its range but what was listed. -/
theorem Memory.mem_writeBytes {m : Memory} {addr : Nat} {bs : List Byte} {x : Host.Cell}
    (h : x ∈ Memory.writeBytes m addr bs) :
    (addr ≤ x.1 ∧ x.1 < addr + bs.length) ∨ x ∈ m := by
  induction bs generalizing m addr with
  | nil => exact .inr h
  | cons b bs ih =>
    rcases ih h with h | h
    · exact .inl ⟨by omega, by simp; omega⟩
    · rcases Memory.mem_write h with rfl | h
      · exact .inl ⟨le_refl _, by simp⟩
      · exact .inr h

/-- A read after a run of writes. -/
theorem Memory.read_writeBytes (m : Memory) (addr i : Nat) (bs : List Byte) :
    Memory.read (Memory.writeBytes m addr bs) i =
      if addr ≤ i ∧ i < addr + bs.length then bs[i - addr]? else Memory.read m i := by
  induction bs generalizing m addr with
  | nil => simp [Memory.writeBytes]
  | cons b bs ih =>
    rw [Memory.writeBytes, ih, Memory.read_write]
    rcases lt_trichotomy i addr with h | h | h
    · rw [if_neg (by omega), if_neg (by omega), if_neg (by simp; omega)]
    · subst h
      rw [if_neg (by omega), if_pos rfl, if_pos (by simp)]
      simp
    · have hs : i - addr = (i - (addr + 1)) + 1 := by omega
      have hc : (addr + 1 ≤ i ∧ i < addr + 1 + bs.length) ↔
          (addr ≤ i ∧ i < addr + (b :: bs).length) := by simp; omega
      simp only [hc, if_neg (show ¬ i = addr by omega), hs, List.getElem?_cons_succ]

/-- A read after a zero-fill. -/
theorem Memory.read_zeroFill (m : Memory) (addr n i : Nat) :
    Memory.read (Memory.zeroFill m addr n) i =
      if addr ≤ i ∧ i < addr + n then some 0x00#8 else Memory.read m i := by
  rw [Memory.zeroFill, Memory.read_writeBytes]
  simp only [zeros, List.length_replicate]
  split
  · rw [List.getElem?_replicate, if_pos (by omega)]
  · rfl

/-- A run of reads answers exactly when every byte holds a value, and with those bytes. -/
theorem Memory.readRange_ok_iff (m : Memory) (addr n : Nat) (bs : List Byte) :
    Memory.readRange m addr n = .ok bs ↔
      bs.length = n ∧ ∀ i, i < n → Memory.read m (addr + i) = bs[i]? := by
  induction n generalizing addr bs with
  | zero => simp [Memory.readRange, @eq_comm _ [] bs]
  | succ n ih =>
    rw [Memory.readRange]
    cases hr : Memory.read m addr with
    | none =>
      refine iff_of_false (by simp) fun ⟨hl, h⟩ => ?_
      have h0 := h 0 (by omega)
      cases bs with
      | nil => simp at hl
      | cons b bs => simp [hr] at h0
    | some b =>
      cases hrest : Memory.readRange m (addr + 1) n with
      | error j =>
        refine iff_of_false (by simp) fun ⟨hl, h⟩ => ?_
        cases bs with
        | nil => simp at hl
        | cons c cs =>
          have : Memory.readRange m (addr + 1) n = .ok cs := (ih (addr + 1) cs).2
            ⟨by simpa using hl, fun i hi => by
              have := h (i + 1) (by omega)
              rw [show addr + 1 + i = addr + (i + 1) by omega]
              simpa using this⟩
          simp [hrest] at this
      | ok cs =>
        obtain ⟨hl, h⟩ := (ih (addr + 1) cs).1 hrest
        constructor
        · intro he
          obtain rfl : b :: cs = bs := by simpa using he
          refine ⟨by simp [hl], fun i hi => ?_⟩
          cases i with
          | zero => simpa using hr
          | succ i =>
            rw [show addr + (i + 1) = addr + 1 + i by omega]
            simpa using h i (by omega)
        · rintro ⟨hl', h'⟩
          cases bs with
          | nil => simp at hl'
          | cons d ds =>
            have hd : b = d := by have := h' 0 (by omega); simpa [hr] using this
            have : Memory.readRange m (addr + 1) n = .ok ds := (ih (addr + 1) ds).2
              ⟨by simpa using hl', fun i hi => by
                have := h' (i + 1) (by omega)
                rw [show addr + 1 + i = addr + (i + 1) by omega]
                simpa using this⟩
            simp_all

/-- A run of reads over bytes that all hold a value answers. -/
theorem Memory.readRange_of_held (m : Memory) (addr n : Nat)
    (h : ∀ i, i < n → (Memory.read m (addr + i)).isSome = true) :
    ∃ bs, Memory.readRange m addr n = .ok bs ∧ bs.length = n := by
  induction n generalizing addr with
  | zero => exact ⟨[], rfl, rfl⟩
  | succ n ih =>
    obtain ⟨b, hb⟩ := Option.isSome_iff_exists.1 (h 0 (by omega))
    obtain ⟨bs, hbs, hl⟩ := ih (addr + 1) fun i hi => by
      rw [show addr + 1 + i = addr + (i + 1) by omega]
      exact h (i + 1) (by omega)
    exact ⟨b :: bs, by simp [Memory.readRange, show Memory.read m addr = some b from hb, hbs],
      by simp [hl]⟩

/-- A run of reads stops at an index of its range that holds no value. -/
theorem Memory.readRange_error {m : Memory} {addr n i : Nat}
    (h : Memory.readRange m addr n = .error i) :
    addr ≤ i ∧ i < addr + n ∧ Memory.read m i = none := by
  induction n generalizing addr with
  | zero => simp [Memory.readRange] at h
  | succ n ih =>
    rw [Memory.readRange] at h
    cases hr : Memory.read m addr with
    | none =>
      obtain rfl : addr = i := by simpa [hr] using h
      exact ⟨le_refl _, by omega, hr⟩
    | some b =>
      cases hrest : Memory.readRange m (addr + 1) n with
      | error j =>
        obtain rfl : j = i := by simpa [hr, hrest] using h
        obtain ⟨h1, h2, h3⟩ := ih hrest
        exact ⟨by omega, by omega, h3⟩
      | ok bs => simp [hr, hrest] at h

end Sys2Proof.Machine
end

