-- ==== Sys2Proof/Laws/State.lean ====
section
/-!
SUPPORT. One lemma per field per update of the state, true by rfl, so that no proof unfolds a record
update.
-/

namespace Sys2Proof.Machine

variable (s : State)

/-! ### respond -/

@[simp] theorem respond_phase (b : Byte) :
    (respond b s).phase = s.phase := rfl

@[simp] theorem respond_var (b : Byte) :
    (respond b s).var = s.var := rfl

@[simp] theorem respond_err (b : Byte) :
    (respond b s).err = s.err := rfl

@[simp] theorem respond_errCode (b : Byte) :
    (respond b s).errCode = s.errCode := rfl

@[simp] theorem respond_len (b : Byte) :
    (respond b s).len = s.len := rfl

@[simp] theorem respond_buf (b : Byte) :
    (respond b s).buf = s.buf := rfl

@[simp] theorem respond_hash (b : Byte) :
    (respond b s).hash = s.hash := rfl

@[simp] theorem respond_rounds (b : Byte) :
    (respond b s).rounds = s.rounds := rfl

@[simp] theorem respond_schedule (b : Byte) :
    (respond b s).schedule = s.schedule := rfl

@[simp] theorem respond_digest (b : Byte) :
    (respond b s).digest = s.digest := rfl

@[simp] theorem respond_port (b : Byte) :
    (respond b s).port = s.port := rfl

@[simp] theorem respond_out (b : Byte) :
    (respond b s).out = s.out ++ [b] := rfl

@[simp] theorem respond_fresh (b : Byte) :
    (respond b s).fresh = s.fresh := rfl

/-! ### setBuf -/

@[simp] theorem setBuf_phase (m : Memory) :
    (setBuf m s).phase = s.phase := rfl

@[simp] theorem setBuf_var (m : Memory) :
    (setBuf m s).var = s.var := rfl

@[simp] theorem setBuf_err (m : Memory) :
    (setBuf m s).err = s.err := rfl

@[simp] theorem setBuf_errCode (m : Memory) :
    (setBuf m s).errCode = s.errCode := rfl

@[simp] theorem setBuf_len (m : Memory) :
    (setBuf m s).len = s.len := rfl

@[simp] theorem setBuf_buf (m : Memory) :
    (setBuf m s).buf = m := rfl

@[simp] theorem setBuf_hash (m : Memory) :
    (setBuf m s).hash = s.hash := rfl

@[simp] theorem setBuf_rounds (m : Memory) :
    (setBuf m s).rounds = s.rounds := rfl

@[simp] theorem setBuf_schedule (m : Memory) :
    (setBuf m s).schedule = s.schedule := rfl

@[simp] theorem setBuf_digest (m : Memory) :
    (setBuf m s).digest = s.digest := rfl

@[simp] theorem setBuf_port (m : Memory) :
    (setBuf m s).port = s.port := rfl

@[simp] theorem setBuf_out (m : Memory) :
    (setBuf m s).out = s.out := rfl

@[simp] theorem setBuf_fresh (m : Memory) :
    (setBuf m s).fresh = s.fresh := rfl

/-! ### storeByte -/

@[simp] theorem storeByte_phase (f : Nat) (b : Byte) :
    (storeByte f b s).phase = s.phase := rfl

@[simp] theorem storeByte_var (f : Nat) (b : Byte) :
    (storeByte f b s).var = s.var := rfl

@[simp] theorem storeByte_err (f : Nat) (b : Byte) :
    (storeByte f b s).err = s.err := rfl

@[simp] theorem storeByte_errCode (f : Nat) (b : Byte) :
    (storeByte f b s).errCode = s.errCode := rfl

@[simp] theorem storeByte_len (f : Nat) (b : Byte) :
    (storeByte f b s).len = s.len + 8#128 := rfl

@[simp] theorem storeByte_buf (f : Nat) (b : Byte) :
    (storeByte f b s).buf = Memory.write s.buf f b := rfl

@[simp] theorem storeByte_hash (f : Nat) (b : Byte) :
    (storeByte f b s).hash = s.hash := rfl

@[simp] theorem storeByte_rounds (f : Nat) (b : Byte) :
    (storeByte f b s).rounds = s.rounds := rfl

@[simp] theorem storeByte_schedule (f : Nat) (b : Byte) :
    (storeByte f b s).schedule = s.schedule := rfl

@[simp] theorem storeByte_digest (f : Nat) (b : Byte) :
    (storeByte f b s).digest = s.digest := rfl

@[simp] theorem storeByte_port (f : Nat) (b : Byte) :
    (storeByte f b s).port = s.port := rfl

@[simp] theorem storeByte_out (f : Nat) (b : Byte) :
    (storeByte f b s).out = s.out := rfl

@[simp] theorem storeByte_fresh (f : Nat) (b : Byte) :
    (storeByte f b s).fresh = s.fresh := rfl

/-! ### storeBlock -/

@[simp] theorem storeBlock_phase {w : Nat} (ws : List (BitVec w)) (r h : Words8 w) :
    (storeBlock ws r h s).phase = s.phase := rfl

@[simp] theorem storeBlock_var {w : Nat} (ws : List (BitVec w)) (r h : Words8 w) :
    (storeBlock ws r h s).var = s.var := rfl

@[simp] theorem storeBlock_err {w : Nat} (ws : List (BitVec w)) (r h : Words8 w) :
    (storeBlock ws r h s).err = s.err := rfl

@[simp] theorem storeBlock_errCode {w : Nat} (ws : List (BitVec w)) (r h : Words8 w) :
    (storeBlock ws r h s).errCode = s.errCode := rfl

@[simp] theorem storeBlock_len {w : Nat} (ws : List (BitVec w)) (r h : Words8 w) :
    (storeBlock ws r h s).len = s.len := rfl

@[simp] theorem storeBlock_buf {w : Nat} (ws : List (BitVec w)) (r h : Words8 w) :
    (storeBlock ws r h s).buf = s.buf := rfl

@[simp] theorem storeBlock_hash {w : Nat} (ws : List (BitVec w)) (r h : Words8 w) :
    (storeBlock ws r h s).hash = wordsWidth 64 h := rfl

@[simp] theorem storeBlock_rounds {w : Nat} (ws : List (BitVec w)) (r h : Words8 w) :
    (storeBlock ws r h s).rounds = wordsWidth 64 r := rfl

@[simp] theorem storeBlock_schedule {w : Nat} (ws : List (BitVec w)) (r h : Words8 w) :
    (storeBlock ws r h s).schedule = loadSchedule s.schedule 0 (ws.map (·.setWidth 64)) := rfl

@[simp] theorem storeBlock_digest {w : Nat} (ws : List (BitVec w)) (r h : Words8 w) :
    (storeBlock ws r h s).digest = s.digest := rfl

@[simp] theorem storeBlock_port {w : Nat} (ws : List (BitVec w)) (r h : Words8 w) :
    (storeBlock ws r h s).port = s.port := rfl

@[simp] theorem storeBlock_out {w : Nat} (ws : List (BitVec w)) (r h : Words8 w) :
    (storeBlock ws r h s).out = s.out := rfl

@[simp] theorem storeBlock_fresh {w : Nat} (ws : List (BitVec w)) (r h : Words8 w) :
    (storeBlock ws r h s).fresh = s.fresh := rfl

/-! ### storeDigest -/

@[simp] theorem storeDigest_phase (bytes : List Byte) :
    (storeDigest bytes s).phase = .done := rfl

@[simp] theorem storeDigest_var (bytes : List Byte) :
    (storeDigest bytes s).var = s.var := rfl

@[simp] theorem storeDigest_err (bytes : List Byte) :
    (storeDigest bytes s).err = s.err := rfl

@[simp] theorem storeDigest_errCode (bytes : List Byte) :
    (storeDigest bytes s).errCode = s.errCode := rfl

@[simp] theorem storeDigest_len (bytes : List Byte) :
    (storeDigest bytes s).len = s.len := rfl

@[simp] theorem storeDigest_buf (bytes : List Byte) :
    (storeDigest bytes s).buf = s.buf := rfl

@[simp] theorem storeDigest_hash (bytes : List Byte) :
    (storeDigest bytes s).hash = s.hash := rfl

@[simp] theorem storeDigest_rounds (bytes : List Byte) :
    (storeDigest bytes s).rounds = s.rounds := rfl

@[simp] theorem storeDigest_schedule (bytes : List Byte) :
    (storeDigest bytes s).schedule = s.schedule := rfl

@[simp] theorem storeDigest_digest (bytes : List Byte) :
    (storeDigest bytes s).digest = Memory.writeBytes [] 0 bytes := rfl

@[simp] theorem storeDigest_port (bytes : List Byte) :
    (storeDigest bytes s).port = s.port := rfl

@[simp] theorem storeDigest_out (bytes : List Byte) :
    (storeDigest bytes s).out = s.out := rfl

@[simp] theorem storeDigest_fresh (bytes : List Byte) :
    (storeDigest bytes s).fresh = s.fresh := rfl

/-! ### openSession -/

@[simp] theorem openSession_phase (v : Variant) :
    (openSession v s).phase = .absorbing := rfl

@[simp] theorem openSession_var (v : Variant) :
    (openSession v s).var = .sel v := rfl

@[simp] theorem openSession_err (v : Variant) :
    (openSession v s).err = s.err := rfl

@[simp] theorem openSession_errCode (v : Variant) :
    (openSession v s).errCode = s.errCode := rfl

@[simp] theorem openSession_len (v : Variant) :
    (openSession v s).len = 0#128 := rfl

@[simp] theorem openSession_buf (v : Variant) :
    (openSession v s).buf = s.buf := rfl

@[simp] theorem openSession_hash (v : Variant) :
    (openSession v s).hash = initialHash v := rfl

@[simp] theorem openSession_rounds (v : Variant) :
    (openSession v s).rounds = s.rounds := rfl

@[simp] theorem openSession_schedule (v : Variant) :
    (openSession v s).schedule = s.schedule := rfl

@[simp] theorem openSession_digest (v : Variant) :
    (openSession v s).digest = [] := rfl

@[simp] theorem openSession_port (v : Variant) :
    (openSession v s).port = s.port := rfl

@[simp] theorem openSession_out (v : Variant) :
    (openSession v s).out = s.out := rfl

@[simp] theorem openSession_fresh (v : Variant) :
    (openSession v s).fresh = s.fresh := rfl

/-! ### recordError -/

@[simp] theorem recordError_phase (c : ProtocolError) :
    (recordError c s).phase = s.phase := rfl

@[simp] theorem recordError_var (c : ProtocolError) :
    (recordError c s).var = s.var := rfl

@[simp] theorem recordError_err (c : ProtocolError) :
    (recordError c s).err = true := rfl

@[simp] theorem recordError_errCode (c : ProtocolError) :
    (recordError c s).errCode = errorCode c := rfl

@[simp] theorem recordError_len (c : ProtocolError) :
    (recordError c s).len = s.len := rfl

@[simp] theorem recordError_buf (c : ProtocolError) :
    (recordError c s).buf = s.buf := rfl

@[simp] theorem recordError_hash (c : ProtocolError) :
    (recordError c s).hash = s.hash := rfl

@[simp] theorem recordError_rounds (c : ProtocolError) :
    (recordError c s).rounds = s.rounds := rfl

@[simp] theorem recordError_schedule (c : ProtocolError) :
    (recordError c s).schedule = s.schedule := rfl

@[simp] theorem recordError_digest (c : ProtocolError) :
    (recordError c s).digest = s.digest := rfl

@[simp] theorem recordError_port (c : ProtocolError) :
    (recordError c s).port = s.port := rfl

@[simp] theorem recordError_out (c : ProtocolError) :
    (recordError c s).out = s.out := rfl

@[simp] theorem recordError_fresh (c : ProtocolError) :
    (recordError c s).fresh = s.fresh := rfl

/-! ### resetCore -/

@[simp] theorem resetCore_phase :
    (resetCore s).phase = .idle := rfl

@[simp] theorem resetCore_var :
    (resetCore s).var = .none := rfl

@[simp] theorem resetCore_err :
    (resetCore s).err = false := rfl

@[simp] theorem resetCore_errCode :
    (resetCore s).errCode = 0#3 := rfl

@[simp] theorem resetCore_len :
    (resetCore s).len = Config.freeLen s.fresh := rfl

@[simp] theorem resetCore_buf :
    (resetCore s).buf = [] := rfl

@[simp] theorem resetCore_hash :
    (resetCore s).hash = Config.freeHash s.fresh := rfl

@[simp] theorem resetCore_rounds :
    (resetCore s).rounds = Config.freeRounds s.fresh := rfl

@[simp] theorem resetCore_schedule :
    (resetCore s).schedule = Config.freeSchedule s.fresh := rfl

@[simp] theorem resetCore_digest :
    (resetCore s).digest = [] := rfl

@[simp] theorem resetCore_port :
    (resetCore s).port = s.port := rfl

@[simp] theorem resetCore_out :
    (resetCore s).out = s.out := rfl

@[simp] theorem resetCore_fresh :
    (resetCore s).fresh = s.fresh + 1 := rfl

/-! ### withFetchWord -/

@[simp] theorem withFetchWord_phase (nbits w : Nat) :
    (s.withFetchWord nbits w).phase = s.phase := rfl

@[simp] theorem withFetchWord_var (nbits w : Nat) :
    (s.withFetchWord nbits w).var = s.var := rfl

@[simp] theorem withFetchWord_err (nbits w : Nat) :
    (s.withFetchWord nbits w).err = s.err := rfl

@[simp] theorem withFetchWord_errCode (nbits w : Nat) :
    (s.withFetchWord nbits w).errCode = s.errCode := rfl

@[simp] theorem withFetchWord_len (nbits w : Nat) :
    (s.withFetchWord nbits w).len = s.len := rfl

@[simp] theorem withFetchWord_buf (nbits w : Nat) :
    (s.withFetchWord nbits w).buf = s.buf := rfl

@[simp] theorem withFetchWord_hash (nbits w : Nat) :
    (s.withFetchWord nbits w).hash = s.hash := rfl

@[simp] theorem withFetchWord_rounds (nbits w : Nat) :
    (s.withFetchWord nbits w).rounds = s.rounds := rfl

@[simp] theorem withFetchWord_schedule (nbits w : Nat) :
    (s.withFetchWord nbits w).schedule = s.schedule := rfl

@[simp] theorem withFetchWord_digest (nbits w : Nat) :
    (s.withFetchWord nbits w).digest = s.digest := rfl

@[simp] theorem withFetchWord_port (nbits w : Nat) :
    (s.withFetchWord nbits w).port = .word (BitVec.ofNat 16 w) :: s.port := rfl

@[simp] theorem withFetchWord_out (nbits w : Nat) :
    (s.withFetchWord nbits w).out = s.out := rfl

@[simp] theorem withFetchWord_fresh (nbits w : Nat) :
    (s.withFetchWord nbits w).fresh = s.fresh := rfl

end Sys2Proof.Machine
end

