-- ==== Sys2Proof/Laws/Ops.lean ====
section
/-!
SUPPORT. What each shared operation can do, said once: the lockout, the choice of the variant, an
error entry, one block through the pipeline, and the two halves of FINISH.
-/

namespace Sys2Proof.Machine

/-! ### The lockout and the variant -/

theorem unlessLocked_locked {perform : State → Host.Outcome State Fault Refusal} {s : State}
    (h : s.err = true) : unlessLocked perform s = .next s := by simp [unlessLocked, h]

theorem unlessLocked_open {perform : State → Host.Outcome State Fault Refusal} {s : State}
    (h : s.err = false) : unlessLocked perform s = perform s := by simp [unlessLocked, h]

/-- A command under the lockout rule is dropped or performed (R194). -/
theorem unlessLocked_cases {perform : State → Host.Outcome State Fault Refusal} {s : State}
    {o : Host.Outcome State Fault Refusal} (h : unlessLocked perform s = o) :
    (s.err = true ∧ o = .next s) ∨ (s.err = false ∧ perform s = o) := by
  cases he : s.err with
  | true => exact .inl ⟨rfl, by rw [← h, unlessLocked_locked he]⟩
  | false => exact .inr ⟨rfl, by rw [← h, unlessLocked_open he]⟩

theorem withVariant_sel {s : State} {v : Variant}
    {k : Variant → Host.Outcome State Fault Refusal} (h : s.var = .sel v) :
    withVariant s k = k v := by simp [withVariant, h]

/-- A command that needs the variant has it, or the model stops (log 6). -/
theorem withVariant_cases {s : State} {k : Variant → Host.Outcome State Fault Refusal}
    {o : Host.Outcome State Fault Refusal} (h : withVariant s k = o) :
    (∃ v, s.var = .sel v ∧ k v = o) ∨ (s.var = .none ∧ o = .fault .noVariant) := by
  cases hv : s.var with
  | sel v => exact .inl ⟨v, rfl, by rw [← h, withVariant_sel hv]⟩
  | none => exact .inr ⟨rfl, by rw [← h]; simp [withVariant, hv]⟩

@[simp] theorem outcomeOf_ok (s : State) : outcomeOf (.ok s) = .next s := rfl

@[simp] theorem outcomeOf_error (e : Fault) : outcomeOf (.error e) = .fault e := rfl

theorem outcomeOf_next {x : Except Fault State} {t : State} :
    outcomeOf x = .next t ↔ x = .ok t := by cases x <;> simp [outcomeOf]

theorem raiseError_eq (c : ProtocolError) (s : State) :
    raiseError c s = .next (recordError c s) := rfl

/-! ### Sizes -/

theorem blockBytes_cases (v : Variant) :
    (blockBytes v = 64 ∧ suffixBytes v = 8) ∨ (blockBytes v = 128 ∧ suffixBytes v = 16) := by
  cases v <;> decide

theorem suffixBytes_lt (v : Variant) : suffixBytes v < blockBytes v := by cases v <;> decide

theorem fill_lt (v : Variant) (len : BitVec 128) : fill v len < blockBytes v :=
  Nat.mod_lt _ (by cases v <;> decide)

/-- `fill` by the value of LEN (R26). -/
theorem fill_eq (v : Variant) (len : BitVec 128) : fill v len = len.toNat / 8 % blockBytes v := by
  simp [fill, Nat.shiftRight_eq_div_pow]

/-- Eight more bits are one more byte of the block, and the wraps of LEN and of the block agree
(R25, R26). -/
theorem fill_add_eight (v : Variant) (len : BitVec 128) :
    fill v (len + 8#128) = (fill v len + 1) % blockBytes v := by
  have h := len.isLt
  rcases blockBytes_cases v with ⟨hb, -⟩ | ⟨hb, -⟩ <;>
    · simp only [fill_eq, hb, BitVec.toNat_add, BitVec.toNat_ofNat]
      omega

@[simp] theorem bytesBE_length (n x : Nat) : (bytesBE n x).length = n := by
  induction n with
  | zero => rfl
  | succ n ih => simp [bytesBE, ih]

@[simp] theorem zeros_length (n : Nat) : (zeros n).length = n := by simp [zeros]

/-- A digest has `DL` bytes (R161). -/
theorem formatDigest_length (v : Variant) (h : Words8 64) :
    (formatDigest v h).length = digestBytes v := by
  cases v <;> simp [formatDigest, wordsList, outWords, digestBytes, wordBytes, trackOf]

/-! ### One block through the pipeline -/

/-- `ProcessBlock` on a track, with the bytes of BUF: it writes the datapath and H (R180). -/
theorem processOn_of_block {w : Nat} {p : TrackParams w} {s : State} {block : List Byte}
    (h : Memory.readRange s.buf 0 p.blockBytes = .ok block) :
    processOn p s = .ok (storeBlock (expand p (decodeBlock w block))
      (runRounds p (wordsWidth w s.hash) (expand p (decodeBlock w block)))
      (compress p (wordsWidth w s.hash) (expand p (decodeBlock w block))) s) := by
  simp [processOn, h]

/-- `ProcessBlock` on a track, where a byte of BUF holds no value: the model's fault (log 4). -/
theorem processOn_of_error {w : Nat} {p : TrackParams w} {s : State} {i : Nat}
    (h : Memory.readRange s.buf 0 p.blockBytes = .error i) :
    processOn p s = .error (.bufNoValue i) := by
  simp [processOn, h]

/-- `ProcessBlock` for a variant: with the `B` bytes of BUF it folds them into H; it writes nothing
but H, a..h and W (R180). -/
theorem processBlock_of_block {v : Variant} {s : State} {block : List Byte}
    (h : Memory.readRange s.buf 0 (blockBytes v) = .ok block) :
    ∃ ws r, processBlock v s =
      .ok { s with schedule := ws, rounds := r, hash := compressBlock v s.hash block } := by
  cases v <;> exact ⟨_, _, processOn_of_block h⟩

/-- Everything `ProcessBlock` can do (R180). -/
theorem processBlock_cases {v : Variant} {s : State} {x : Except Fault State}
    (h : processBlock v s = x) :
    (∃ block ws r, Memory.readRange s.buf 0 (blockBytes v) = .ok block ∧
      x = .ok { s with schedule := ws, rounds := r, hash := compressBlock v s.hash block }) ∨
    (∃ i, i < blockBytes v ∧ Memory.read s.buf i = none ∧ x = .error (.bufNoValue i)) := by
  cases hr : Memory.readRange s.buf 0 (blockBytes v) with
  | ok block =>
    obtain ⟨ws, r, hp⟩ := processBlock_of_block hr
    exact .inl ⟨block, ws, r, rfl, by rw [← h, hp]⟩
  | error i =>
    obtain ⟨-, hi, hn⟩ := Memory.readRange_error hr
    refine .inr ⟨i, by omega, hn, ?_⟩
    rw [← h]
    cases v <;> exact processOn_of_error hr

/-- With every byte of the block holding a value, `ProcessBlock` completes (R109, R190). -/
theorem processBlock_of_held {v : Variant} {s : State}
    (h : ∀ i, i < blockBytes v → (Memory.read s.buf i).isSome = true) :
    ∃ block ws r, Memory.readRange s.buf 0 (blockBytes v) = .ok block ∧ processBlock v s =
      .ok { s with schedule := ws, rounds := r, hash := compressBlock v s.hash block } := by
  obtain ⟨block, hb, -⟩ := Memory.readRange_of_held s.buf 0 (blockBytes v) (by simpa using h)
  obtain ⟨ws, r, hp⟩ := processBlock_of_block hb
  exact ⟨block, ws, r, hb, hp⟩

/-! ### The halves of FINISH -/

/-- Everything the end of FINISH can do (R107): the suffix is in BUF, the block is folded into H,
the digest of H is in DIGEST, the phase is DONE. -/
theorem sealMessage_cases {v : Variant} {s : State} {x : Except Fault State}
    (h : sealMessage v s = x) :
    (∃ block ws r,
      Memory.readRange (Memory.writeBE s.buf (blockBytes v - suffixBytes v) (suffixBytes v)
        (suffixValue v s.len)) 0 (blockBytes v) = .ok block ∧
      x = .ok { s with
        buf := Memory.writeBE s.buf (blockBytes v - suffixBytes v) (suffixBytes v)
          (suffixValue v s.len)
        schedule := ws
        rounds := r
        hash := compressBlock v s.hash block
        digest := Memory.writeBytes [] 0 (formatDigest v (compressBlock v s.hash block))
        phase := .done }) ∨
    (∃ i, i < blockBytes v ∧ Memory.read (Memory.writeBE s.buf (blockBytes v - suffixBytes v)
      (suffixBytes v) (suffixValue v s.len)) i = none ∧ x = .error (.bufNoValue i)) := by
  rcases hp : processBlock v (setBuf (Memory.writeBE s.buf (blockBytes v - suffixBytes v)
      (suffixBytes v) (suffixValue v s.len)) s) with e | t
  · simp only [sealMessage, hp] at h
    rcases processBlock_cases hp with ⟨_, _, _, _, hx⟩ | ⟨i, hi, hn, hx⟩
    · cases hx
    · cases hx
      exact .inr ⟨i, hi, hn, h.symm⟩
  · simp only [sealMessage, hp] at h
    rcases processBlock_cases hp with ⟨block, ws, r, hb, hx⟩ | ⟨_, _, _, hx⟩
    · cases hx
      exact .inl ⟨block, ws, r, hb, h.symm⟩
    · cases hx

end Sys2Proof.Machine
end

