-- ==== Sys2Proof/Laws/Exec.lean ====
section
/-!
SUPPORT. What each command, and a step, can do, said once: one inversion lemma per meaning, from
which frames, invariants and completions follow without unfolding it again.
-/

namespace Sys2Proof.Machine

variable {s : State} {o : Host.Outcome State Fault Refusal}

@[simp] theorem exec_reset (s : State) : exec .reset s = .next (resetCore s) := rfl

@[simp] theorem exec_status (s : State) :
    exec .status s = .next (respond (statusByte s) s) := rfl

/-- Everything the three STARTs can do (R166, R194). -/
theorem exec_start_cases {v : Variant} (h : exec (startOf v) s = o) :
    (s.err = true ∧ o = .next s) ∨ (s.err = false ∧ o = .next (openSession v s)) := by
  cases v <;> exact (unlessLocked_cases h).imp_right fun ⟨he, hp⟩ => ⟨he, hp.symm⟩

/-- Everything ABSORB can do (R106, R182, R194; log 6). -/
theorem exec_absorb_cases {b : Byte} (h : exec (.absorb b) s = o) :
    (s.err = true ∧ o = .next s) ∨
    (s.err = false ∧ s.phase ≠ .absorbing ∧ o = .next (recordError .badPhase s)) ∨
    (s.err = false ∧ s.phase = .absorbing ∧ s.var = .none ∧ o = .fault .noVariant) ∨
    (∃ v, s.err = false ∧ s.phase = .absorbing ∧ s.var = .sel v ∧
      fill v s.len + 1 < blockBytes v ∧ o = .next (storeByte (fill v s.len) b s)) ∨
    (∃ v, s.err = false ∧ s.phase = .absorbing ∧ s.var = .sel v ∧
      fill v s.len + 1 = blockBytes v ∧
      o = outcomeOf (processBlock v (storeByte (fill v s.len) b s))) := by
  rcases unlessLocked_cases h with h | ⟨he, h⟩
  · exact .inl h
  · simp only [performAbsorb] at h
    split at h
    · rename_i hp
      rcases withVariant_cases h with ⟨v, hv, h⟩ | ⟨hv, h⟩
      · have hlt := fill_lt v s.len
        simp only [absorbByte] at h
        split at h
        · exact .inr (.inr (.inr (.inr ⟨v, he, hp, hv, by omega, h.symm⟩)))
        · exact .inr (.inr (.inr (.inl ⟨v, he, hp, hv, by omega, h.symm⟩)))
      · exact .inr (.inr (.inl ⟨he, hp, hv, h⟩))
    · rename_i hp
      exact .inr (.inl ⟨he, hp, h.symm⟩)

/-- Everything FINISH can do (R107, R182, R194; log 6). -/
theorem exec_finish_cases (h : exec .finish s = o) :
    (s.err = true ∧ o = .next s) ∨
    (s.err = false ∧ s.phase ≠ .absorbing ∧ o = .next (recordError .badPhase s)) ∨
    (s.err = false ∧ s.phase = .absorbing ∧ s.var = .none ∧ o = .fault .noVariant) ∨
    (∃ v, s.err = false ∧ s.phase = .absorbing ∧ s.var = .sel v ∧
      fill v s.len < blockBytes v - suffixBytes v ∧
      o = outcomeOf (padOneBlock v (fill v s.len) s)) ∨
    (∃ v, s.err = false ∧ s.phase = .absorbing ∧ s.var = .sel v ∧
      blockBytes v - suffixBytes v ≤ fill v s.len ∧
      o = outcomeOf (padTwoBlocks v (fill v s.len) s)) := by
  rcases unlessLocked_cases h with h | ⟨he, h⟩
  · exact .inl h
  · simp only [performFinish] at h
    split at h
    · rename_i hp
      rcases withVariant_cases h with ⟨v, hv, h⟩ | ⟨hv, h⟩
      · simp only [finishMessage] at h
        split at h
        · rename_i hf
          exact .inr (.inr (.inr (.inr ⟨v, he, hp, hv, hf, h.symm⟩)))
        · rename_i hf
          exact .inr (.inr (.inr (.inl ⟨v, he, hp, hv, by omega, h.symm⟩)))
      · exact .inr (.inr (.inl ⟨he, hp, hv, h⟩))
    · rename_i hp
      exact .inr (.inl ⟨he, hp, h.symm⟩)

/-- Everything READ can do (R167, R182, R194; log 4, log 6). -/
theorem exec_read_cases {i : BitVec 6} (h : exec (.read i) s = o) :
    (s.err = true ∧ o = .next s) ∨
    (s.err = false ∧ s.phase ≠ .done ∧ o = .next (recordError .badPhase s)) ∨
    (s.err = false ∧ s.phase = .done ∧ s.var = .none ∧ o = .fault .noVariant) ∨
    (∃ v, s.err = false ∧ s.phase = .done ∧ s.var = .sel v ∧ digestBytes v ≤ i.toNat ∧
      o = .next (recordError .badIndex s)) ∨
    (∃ v b, s.err = false ∧ s.phase = .done ∧ s.var = .sel v ∧ i.toNat < digestBytes v ∧
      Memory.read s.digest i.toNat = some b ∧ o = .next (respond b s)) ∨
    (∃ v, s.err = false ∧ s.phase = .done ∧ s.var = .sel v ∧ i.toNat < digestBytes v ∧
      Memory.read s.digest i.toNat = none ∧ o = .fault (.digestNoValue i.toNat)) := by
  rcases unlessLocked_cases h with h | ⟨he, h⟩
  · exact .inl h
  · simp only [performRead, digestIndex] at h
    split at h
    · rename_i hp
      rcases withVariant_cases h with ⟨v, hv, h⟩ | ⟨hv, h⟩
      · simp only [readDigest] at h
        split at h
        · rename_i hi
          exact .inr (.inr (.inr (.inl ⟨v, he, hp, hv, hi, h.symm⟩)))
        · rename_i hi
          split at h
          · rename_i b hb
            exact .inr (.inr (.inr (.inr (.inl ⟨v, b, he, hp, hv, by omega, hb, h.symm⟩))))
          · rename_i hb
            exact .inr (.inr (.inr (.inr (.inr ⟨v, he, hp, hv, by omega, hb, h.symm⟩))))
      · exact .inr (.inr (.inl ⟨he, hp, hv, h⟩))
    · rename_i hp
      exact .inr (.inl ⟨he, hp, h.symm⟩)

/-- Everything a word that is no command can do (R191, R194). -/
theorem execIllegal_cases {c : ProtocolError} (h : execIllegal c s = o) :
    (s.err = true ∧ o = .next s) ∨ (s.err = false ∧ o = .next (recordError c s)) :=
  (unlessLocked_cases h).imp_right fun ⟨he, hp⟩ => ⟨he, hp.symm⟩

/-- Everything a step can do (R182): wait, take `rst`, run the decoded command, or take a word that
is no command. -/
theorem step_cases (h : step s = o) :
    (s.port = [] ∧ o = .next s) ∨
    (∃ rest, s.port = .rst :: rest ∧ o = .next (resetCore { s with port := rest })) ∨
    (∃ w rest i, s.port = .word w :: rest ∧ decode w = .ok i ∧
      exec i { s with port := rest } = o) ∨
    (∃ w rest c, s.port = .word w :: rest ∧ decode w = .error c ∧
      execIllegal c { s with port := rest } = o) := by
  unfold step fetch at h
  cases hp : s.port with
  | nil =>
    rw [hp] at h
    exact .inl ⟨rfl, h.symm⟩
  | cons x rest =>
    cases x with
    | rst =>
      rw [hp] at h
      exact .inr (.inl ⟨rest, rfl, h.symm⟩)
    | word w =>
      rw [hp] at h
      simp only at h
      cases hd : decode w with
      | ok i =>
        rw [hd] at h
        exact .inr (.inr (.inl ⟨w, rest, i, rfl, hd, h⟩))
      | error c =>
        rw [hd] at h
        exact .inr (.inr (.inr ⟨w, rest, c, rfl, hd, h⟩))

end Sys2Proof.Machine
end

