-- ==== Sys2Proof/Laws/PerInstr.lean ====
section
/-!
SUPPORT. A statement about every instruction as syntax: its word is one of the well-formed words of
R74 and its operands are in the ranges of R72 of spec/30_encoding.md.
-/

namespace Sys2Proof.Laws.EncodedWord

def Statement (i : Instr) : Prop :=
  CmdWord.wellFormed (encode i) = true ∧ Instr.wellFormed i = true

theorem reset : Statement .reset := by unfold Statement; decide

theorem startSha256 : Statement .startSha256 := by unfold Statement; decide

theorem startSha384 : Statement .startSha384 := by unfold Statement; decide

theorem startSha512 : Statement .startSha512 := by unfold Statement; decide

theorem absorb (b : Byte) : Statement (.absorb b) := by
  revert b; unfold Statement; decide +kernel

theorem finish : Statement .finish := by unfold Statement; decide

theorem read (i : BitVec 6) : Statement (.read i) := by
  revert i; unfold Statement; decide +kernel

theorem status : Statement .status := by unfold Statement; decide

end Sys2Proof.Laws.EncodedWord
end

