-- ==== Sys2Proof/Tests/Slice0.lean ====
section
/-!
SUPPORT. The model's own tests: the well-formedness checks refuse what they must, words written out
from spec/30_encoding.md decode to their commands, one step of each command gives what the spec's
examples and vectors print, and every statement with hypotheses has a state that meets them.
Expected results come from the rules and from spec/95_test_vectors.md.
-/

open Sys2Proof Sys2Proof.Machine

namespace Sys2Proof.Tests

/- Each theorem is checked before the next is read, so that no thread waits for each of them. -/
set_option Elab.async false

/-! ## Small states -/

/-- A field of the next state, if there is one. -/
def after {α : Type} (o : Host.Outcome State Fault Refusal) (f : State → α) : Option α :=
  match o with
  | .next s => some (f s)
  | _ => none

/-- Bytes at the indices 0, 1, 2, ... -/
def cells (bytes : List Byte) : Memory := Memory.writeBytes [] 0 bytes

/-- A session of variant `v` with the message bytes `m` of its first block absorbed. -/
def absorbing (v : Variant) (m : List Byte) : State :=
  { openSession v State.reset with buf := cells m, len := BitVec.ofNat 128 (8 * m.length) }

def abc : List Byte := [0x61#8, 0x62#8, 0x63#8]

/-- A finished session of variant `v` whose digest is `bytes`. -/
def finished (v : Variant) (bytes : List Byte) : State :=
  storeDigest bytes (openSession v State.reset)

/-- A core that refused a command while idle (STATUS 0x9C). -/
def locked : State := recordError .badPhase State.reset

def withPort (s : State) (p : List PortInput) : State := { s with port := p }

/-! ## Well-formedness: each check refuses an ill-formed word -/

theorem test_opcode_zero_ill_formed : CmdWord.legalOpcode 0x0000#16 = false := by decide

theorem test_opcode_seven_ill_formed : CmdWord.legalOpcode 0x7000#16 = false := by decide

theorem test_rz_ill_formed : CmdWord.rzZero 0x3161#16 = false := by decide

theorem test_arg_of_reset_ill_formed : CmdWord.argReservedZero 0x1001#16 = false := by decide

theorem test_arg_of_start_ill_formed : CmdWord.argReservedZero 0x2004#16 = false := by decide

theorem test_arg_of_finish_ill_formed : CmdWord.argReservedZero 0x4080#16 = false := by decide

theorem test_arg_of_read_ill_formed : CmdWord.argReservedZero 0x5040#16 = false := by decide

theorem test_arg_of_status_ill_formed : CmdWord.argReservedZero 0x6001#16 = false := by decide

theorem test_variant_three_ill_formed : CmdWord.knownVariant 0x2003#16 = false := by decide

theorem test_well_formed_needs_every_check :
    [0xf000#16, 0x6100#16, 0x2004#16, 0x2003#16].map CmdWord.wellFormed =
      [false, false, false, false] := by decide

/-! ## Decode: a word of each row, written out bit by bit from R70 to R72 -/

theorem test_decode_reset : decode 0b0001000000000000#16 = .ok .reset := by decide

theorem test_decode_start_sha256 : decode 0b0010000000000000#16 = .ok .startSha256 := by decide

theorem test_decode_start_sha384 : decode 0b0010000000000001#16 = .ok .startSha384 := by decide

theorem test_decode_start_sha512 : decode 0b0010000000000010#16 = .ok .startSha512 := by decide

/-- `ABSORB 'a'` and a byte with its top bit set. -/
theorem test_decode_absorb :
    decode 0b0011000001100001#16 = .ok (.absorb 0x61#8) ∧
      decode 0b0011000010000000#16 = .ok (.absorb 0x80#8) := by decide

theorem test_decode_finish : decode 0b0100000000000000#16 = .ok .finish := by decide

/-- `READ 31` and `READ 32`, the top bit of the index. -/
theorem test_decode_read :
    decode 0b0101000000011111#16 = .ok (.read 31#6) ∧
      decode 0b0101000000100000#16 = .ok (.read 32#6) := by decide

theorem test_decode_status : decode 0b0110000000000000#16 = .ok .status := by decide

theorem test_decode_table_word :
    decodeTableWord 16 0x2001 = some .startSha384 ∧ decodeTableWord 16 0x2003 = none ∧
      decodeTableWord 16 0x15000 = none := by decide

/-! ## One step of each command -/

/-- R184: with `STATUS = 0x9C`, RESET gives `STATUS = 0x0C`. -/
theorem test_reset_clears_error :
    statusByte locked = 0x9C#8 ∧ after (exec .reset locked) statusByte = some 0x0C#8 := by decide

/-- R73: 0x1001 does not reset. -/
theorem test_malformed_reset_is_dropped :
    after (step (withPort locked [.word 0x1001#16])) statusByte = some 0x9C#8 := by decide

/-- R166: after reset `START SHA384` gives STATUS 0x05, `H[0]` of IV384, LEN 0. -/
theorem test_start_sha384 :
    after (exec .startSha384 State.reset) (fun s => (statusByte s, s.hash.a, s.len)) =
      some (0x05#8, 0xcbbb9d5dc1059ed8#64, 0#128) := by decide

/-- 95 section 8: `START SHA256` in DONE of Sha512; DIGEST loses its value. -/
theorem test_start_sha256_from_done :
    after (exec .startSha256 (finished .sha512 [0x11#8]))
      (fun s => (statusByte s, s.hash.h, s.digest)) =
      some (0x01#8, 0x5be0cd19#64, []) := by decide

theorem test_start_sha512 :
    after (exec .startSha512 (absorbing .sha256 abc)) (fun s => (statusByte s, s.hash.h, s.len)) =
      some (0x09#8, 0x5be0cd19137e2179#64, 0#128) := by decide

/-- R194: START under lockout is dropped. -/
theorem test_start_locked : after (exec .startSha256 locked) statusByte = some 0x9C#8 := by decide

/-- R106: after `START SHA256`, `ABSORB 0x61` gives `BUF[0] = 0x61`, `LEN = 8`. -/
theorem test_absorb_first_byte :
    after (exec (.absorb 0x61#8) (absorbing .sha256 []))
      (fun s => (Memory.read s.buf 0, s.len, fill .sha256 s.len, s.hash.a)) =
      some (some 0x61#8, 8#128, 1, 0x6a09e667#64) := by decide +kernel

/-- 95 P5: the 64th `'a'` has the block processed at once; `H[0]`, `H[7]`, and `fill` is 0 again. -/
theorem test_absorb_fills_the_block :
    after (exec (.absorb 0x61#8) (absorbing .sha256 (List.replicate 63 0x61#8)))
      (fun s => (s.hash.a, s.hash.h, fill .sha256 s.len)) =
      some (0xdf5bb81c#64, 0x00635e66#64, 0) := by decide +kernel

/-- 95 P1: FINISH of "abc" under Sha256: STATUS 0x02, `DIGEST[0] = 0xba`, `DIGEST[31] = 0xad`, and
`BUF[3]`, `BUF[63]` hold the terminator and the suffix. -/
theorem test_finish_one_block :
    after (exec .finish (absorbing .sha256 abc))
      (fun s => (statusByte s, Memory.read s.digest 0, Memory.read s.digest 31,
        Memory.read s.buf 3, Memory.read s.buf 63)) =
      some (0x02#8, some 0xba#8, some 0xad#8, some 0x80#8, some 0x18#8) := by decide +kernel

/-- 95 section 3: 112 bytes of `'a'` under Sha512, two blocks (case C): the digest begins
c01d080e. -/
theorem test_finish_two_blocks :
    after (exec .finish (absorbing .sha512 (List.replicate 112 0x61#8)))
      (fun s => (s.hash.a, Memory.read s.digest 3, Memory.read s.buf 112, Memory.read s.buf 126)) =
      some (0xc01d080efd492776#64, some 0x0e#8, some 0x00#8, some 0x03#8) := by decide +kernel

/-- R167: `READ 0 -> 0xba`; nothing else changes but the response. -/
theorem test_read_answers :
    after (exec (.read 0#6) (finished .sha256 (0xba#8 :: zeros 31)))
      (fun s => (s.out, statusByte s)) = some ([0xba#8], 0x02#8) := by decide

/-- 95 P2: `READ 48` under Sha384 is refused with code 5 and no response: STATUS 0xB6. -/
theorem test_read_too_far :
    after (exec (.read 48#6) (finished .sha384 (zeros 48)))
      (fun s => (s.out, statusByte s)) = some ([], 0xB6#8) := by decide

/-- R183: after reset `STATUS -> 0x0C`; under lockout it still answers. -/
theorem test_status_answers :
    after (exec .status State.reset) (·.out) = some [0x0C#8] ∧
      after (exec .status locked) (·.out) = some [0x9C#8] := by decide

/-- R192: `0x7FFF` gives 1; `0x2103` gives 2, not 3; `0x5020` while ABSORBING gives 4, not 5. -/
theorem test_error_priority :
    after (step (withPort State.reset [.word 0x7FFF#16])) (·.errCode) = some 1#3 ∧
      after (step (withPort State.reset [.word 0x2103#16])) (·.errCode) = some 2#3 ∧
      after (step (withPort (absorbing .sha256 abc) [.word 0x5020#16])) (·.errCode) = some 4#3 := by
  decide

/-- R210, R192: `rst` resets, and the word behind it waits. -/
theorem test_pin_takes_no_command :
    after (step (withPort locked [.rst, .word 0x2000#16])) (fun s => (statusByte s, s.port)) =
      some (0x0C#8, [.word 0x2000#16]) := by decide

/-- A byte of BUF that holds no value is a fault of the model, not a zero (R36, V1; log 4). -/
theorem test_valueless_byte_faults :
    (match exec (.absorb 0x61#8) { absorbing .sha256 [] with len := 504#128 } with
      | .fault f => decide (f = .bufNoValue 0)
      | _ => false) = true := by decide +kernel

/-- `withFetchWord` hands the word to the very next step. -/
theorem test_fetch_word_runs_first :
    after (step (State.reset.withFetchWord 16 0x2002)) statusByte = some 0x09#8 := by decide

/-! ## Witnesses: a state that meets each statement's hypotheses -/

/-- StepRunsTheDecodedCommand. -/
theorem test_witness_step_decodes :
    (withPort State.reset [.word 0x2000#16]).port = .word 0x2000#16 :: [] ∧
      decode 0x2000#16 = .ok .startSha256 := by decide

/-- WaitingCoreIsUnchanged. -/
theorem test_witness_waiting : State.reset.port = [] := rfl

/-- StepTakesOneTransaction, PhaseMovesOnlyAsListed, VarMovesOnlyAtStartAndReset: a step that
answers a next state, at START, at FINISH and at `rst`. -/
theorem test_witness_step_next :
    (after (step (withPort State.reset [.word 0x2000#16])) (·.phase)) = some .absorbing ∧
      (after (step (withPort (absorbing .sha256 abc) [.word 0x4000#16])) (·.phase)) =
        some .done ∧
      (after (step (withPort (absorbing .sha256 abc) [.rst])) (·.phase)) = some .idle := by
  decide +kernel

/-- ErrorEntryIsPrecise: each of the five causes, BAD_INDEX at its first index. -/
theorem test_witness_error_causes :
    (withPort State.reset [.word 0x0000#16]).err = false ∧
      protocolErrorOf State.reset 0x0000#16 = some .illegalOpcode ∧
      protocolErrorOf State.reset 0x1001#16 = some .reservedNonzero ∧
      protocolErrorOf State.reset 0x2003#16 = some .badVariant ∧
      protocolErrorOf State.reset 0x4000#16 = some .badPhase ∧
      protocolErrorOf (absorbing .sha256 abc) 0x5000#16 = some .badPhase ∧
      protocolErrorOf (finished .sha256 (zeros 32)) 0x5020#16 = some .badIndex ∧
      protocolErrorOf (finished .sha256 (zeros 32)) 0x501f#16 = none := by decide

/-- OnlyTheListedCausesSetErr: a step that sets ERR. -/
theorem test_witness_sets_err :
    State.reset.err = false ∧
      after (step (withPort State.reset [.word 0x3061#16])) (·.err) = some true := by decide

/-- LockoutDropsEveryOtherWord: a dropped word and STATUS. -/
theorem test_witness_lockout :
    (withPort locked [.word 0x0000#16]).err = true ∧ (0x0000#16 ≠ 0x1000#16) ∧
      (0x0000#16 ≠ 0x6000#16) ∧
      after (step (withPort locked [.word 0x0000#16])) statusByte = some 0x9C#8 ∧
      after (step (withPort locked [.word 0x6000#16])) (·.out) = some [0x9C#8] := by decide

/-- OnlyResetReturnsFromAnError: both cases; and the clauses with `ERR = 1` of the statements about
START, ABSORB, FINISH and READ. -/
theorem test_witness_error_return :
    locked.err = true ∧
      after (step (withPort locked [.word 0x1000#16])) (·.err) = some false ∧
      after (step (withPort locked [.word 0x2000#16])) (·.errCode) = some 4#3 := by decide

/-- StartOpensASession, SessionDeliversTheHash, AbsorbedBytesStandInLenBufAndHash,
HashScriptRespondsTheDigest and the three other statements about sessions: a state with `ERR = 0`, and one that is not fresh from reset. -/
theorem test_witness_no_error :
    State.reset.err = false ∧ (finished .sha512 (zeros 64)).err = false := by decide

/-- AbsorbAppendsAByte, first clause, at its last `fill` (62 of 64). -/
theorem test_witness_absorb_stores :
    (absorbing .sha256 (zeros 62)).phase = .absorbing ∧
      (absorbing .sha256 (zeros 62)).var = .sel .sha256 ∧
      fill .sha256 (absorbing .sha256 (zeros 62)).len + 1 < blockBytes .sha256 := by decide +kernel

/-- AbsorbAppendsAByte, second clause, at `fill` 63 of 64: every byte holds a value. -/
theorem test_witness_absorb_fills :
    fill .sha256 (absorbing .sha256 (zeros 63)).len + 1 = blockBytes .sha256 ∧
      (zeros 63 ++ [0x61#8]).length = blockBytes .sha256 ∧
      (∀ i, i < blockBytes .sha256 → Memory.read (Memory.write (absorbing .sha256 (zeros 63)).buf
        (fill .sha256 (absorbing .sha256 (zeros 63)).len) 0x61#8) i =
          (zeros 63 ++ [0x61#8])[i]?) := by decide +kernel

/-- AbsorbAppendsAByte and FinishPadsAndFormats, the clause out of phase. -/
theorem test_witness_out_of_phase :
    State.reset.err = false ∧ State.reset.phase ≠ .absorbing := by decide

/-- FinishPadsAndFormats at the last `fill` of one block (55) and the first of two (56). -/
theorem test_witness_finish :
    (∀ n ∈ [55, 56], (zeros n).length = fill .sha256 (absorbing .sha256 (zeros n)).len ∧
      (absorbing .sha256 (zeros n)).phase = .absorbing ∧
      (absorbing .sha256 (zeros n)).var = .sel .sha256 ∧
      (absorbing .sha256 (zeros n)).err = false ∧
      (∀ i, i < (zeros n).length →
        Memory.read (absorbing .sha256 (zeros n)).buf i = (zeros n)[i]?)) := by decide +kernel

/-- FinishPadsAndFormats on the long track: `fill` 111 and 112. -/
theorem test_witness_finish_long :
    (∀ n ∈ [111, 112], (zeros n).length = fill .sha384 (absorbing .sha384 (zeros n)).len ∧
      (∀ i, i < (zeros n).length →
        Memory.read (absorbing .sha384 (zeros n)).buf i = (zeros n)[i]?)) := by decide +kernel

/-- ReadAnswersADigestByte at the last index that answers and the first that does not. -/
theorem test_witness_read :
    (finished .sha256 (zeros 32)).err = false ∧ (finished .sha256 (zeros 32)).phase = .done ∧
      (finished .sha256 (zeros 32)).var = .sel .sha256 ∧
      (31#6).toNat < digestBytes .sha256 ∧
      Memory.read (finished .sha256 (zeros 32)).digest (31#6).toNat = some 0#8 ∧
      digestBytes .sha256 ≤ (32#6).toNat ∧ State.reset.phase ≠ .done := by decide

/-- LenIsWrittenByStartAndAbsorb, the frames, OnlyReadAndStatusRespond: each command answers a next
state from some state, and ABSORB and FINISH do so with their effect. -/
theorem test_witness_exec_next :
    (after (exec .status State.reset) (·.phase)).isSome = true ∧
      (after (exec (.read 0#6) (finished .sha256 (zeros 32))) (·.phase)).isSome = true ∧
      (after (exec .startSha256 State.reset) (·.phase)).isSome = true ∧
      (after (exec (.absorb 0#8) (absorbing .sha256 abc)) (·.len)) = some 32#128 ∧
      (after (exec .finish (absorbing .sha256 abc)) (·.phase)) = some .done := by decide +kernel

/-- OnlyReadAndStatusRespond, second clause: a refused READ. -/
theorem test_witness_refused_read :
    after (step (withPort State.reset [.word 0x5000#16])) (fun s => (s.err, s.out)) =
      some (true, []) := by decide

/-- ShortTrackKeepsTheUpperHalfOfBuf: a short-track command with a byte in the upper half. -/
theorem test_witness_upper_half :
    after (exec (.absorb 0x61#8) { absorbing .sha256 [] with buf := [(100, 0xff#8)] })
      (fun s => (s.var, Memory.read s.buf 100)) =
      some (.sel .sha256, some 0xff#8) := by decide +kernel

/-- ProcessedBlockFillsTheSchedule: a whole block in BUF on each track, and `W[16]` of "abc"
(95 section 5). -/
theorem test_witness_processed_block :
    (∀ v ∈ [Variant.sha256, .sha512],
      (match Memory.readRange (cells (zeros (blockBytes v))) 0 (blockBytes v) with
        | .ok block => block == zeros (blockBytes v)
        | .error _ => false) = true ∧
      (match processBlock v { State.reset with buf := cells (zeros (blockBytes v)) } with
        | .ok _ => true
        | .error _ => false) = true) ∧
    after (exec .finish (absorbing .sha256 abc)) (fun s => s.schedule[16]) =
      some 0x61626380#64 := by decide +kernel

/-- The invariant at a state in the middle of a message, with the bytes below `fill` in BUF. -/
theorem test_witness_invariant : State.Inv (absorbing .sha256 [0x61#8]) where
  idle_iff := by decide
  err_iff := by decide
  code_le := by decide
  badIndex_done := by decide
  len_bytes := by decide
  buf_wf := by decide
  buf_range := by decide
  digest_wf := by decide
  buf_held := by
    intro _ v hv i hi
    obtain rfl : Variant.sha256 = v := by simpa [absorbing, openSession] using hv
    have hf : fill .sha256 (absorbing .sha256 [0x61#8]).len = 1 := by decide
    obtain rfl : i = 0 := by omega
    decide
  digest_lost := by decide
  digest_held := by
    intro h
    exact absurd h (by decide)

/-- StepKeepsTheInvariant, EveryStepCompletesUnderTheInvariant: the step from that state. -/
theorem test_witness_invariant_step :
    (after (step (absorbing .sha256 [0x61#8])) (·.phase)) = some .absorbing := by decide

/-- NoStepReadsAValuelessRegister: two different states that agree wherever a register holds a
value. -/
theorem test_witness_same_values :
    State.SameValues State.reset { State.reset with len := 8#128, rounds := iv512, hash := iv384 } ∧
      State.reset ≠ { State.reset with len := 8#128, rounds := iv512, hash := iv384 } := by
  refine ⟨?_, by decide⟩
  constructor <;> first | rfl | exact fun h => absurd rfl h

/-- ZeroFillCountIsUnique: `r` at the last value of the first clause and the first of the second. -/
theorem test_witness_zero_fill :
    55 % blockBytes .sha256 ≤ blockBytes .sha256 - suffixBytes .sha256 - 1 ∧
      blockBytes .sha256 - suffixBytes .sha256 ≤ 56 % blockBytes .sha256 ∧
      (55 + 1 + 0 + suffixBytes .sha256) % blockBytes .sha256 = 0 := by decide

/-- BigEndianConversionInverts: R10's own example. -/
theorem test_witness_big_endian :
    bytesBE 4 0x61626380 = [0x61#8, 0x62#8, 0x63#8, 0x80#8] ∧ 0x61626380 < 2 ^ (8 * 4) := by
  decide

/-- BlockDecoderIsABijection and ScheduleFollowsItsRecurrence: blocks and words of their lengths,
and the first word of 95 section 4. -/
theorem test_witness_block_lengths :
    (zeros 64).length = 64 ∧ (zeros 128).length = 128 ∧
      (List.replicate 16 0#32).length = 16 ∧ (List.replicate 16 0#64).length = 16 ∧
      (decodeBlock 32 ((List.range 64).map (BitVec.ofNat 8))).head? = some 0x00010203#32 := by
  decide +kernel

/-- DigestLayoutByVariant: the last word of Sha384 and its last byte are in range. -/
theorem test_witness_digest_layout :
    5 < outWords .sha384 ∧ 7 < wordBytes .sha384 ∧ 5 * wordBytes .sha384 + 7 < 48 := by decide

/-- EveryWordWellFormedOrRefused: words of both illegal ranges. -/
theorem test_witness_illegal_ranges :
    (0x0fff#16).toNat / 0x1000 = 0 ∧ 7 ≤ (0x7000#16).toNat / 0x1000 := by decide

/-- SessionProcessesThePaddedBlocks: the ABSORB that completes a block (index 63) and the one before,
and the last length of one final block and the first of two. -/
theorem test_witness_processed_blocks :
    (zeros 64)[62]? = some 0#8 ∧ (62 + 1) % blockBytes .sha256 ≠ 0 ∧
      (zeros 64)[63]? = some 0#8 ∧ (63 + 1) % blockBytes .sha256 = 0 ∧
      55 % blockBytes .sha256 < blockBytes .sha256 - suffixBytes .sha256 ∧
      ¬ 56 % blockBytes .sha256 < blockBytes .sha256 - suffixBytes .sha256 := by decide +kernel

/-- InterleavedStatusAndReadKeepTheResult: the reset state, and one that is not fresh from reset;
STATUS around and inside "ab", then READ of the last byte and STATUS. -/
theorem test_witness_interleaved :
    (State.reset.err = false ∧ State.reset.errCode = 0#3) ∧
      ((finished .sha512 (zeros 64)).err = false ∧
        (finished .sha512 (zeros 64)).errCode = 0#3) ∧
      [Instr.status, .absorb 0x61#8, .status, .absorb 0x62#8, .status].filter (· ≠ .status) =
        absorbs [0x61#8, 0x62#8] ∧
      ∀ i ∈ [Instr.read 31#6, .status],
        i = .status ∨ ∃ k, i = .read k ∧ k.toNat < digestBytes .sha256 := by
  refine ⟨by decide, by decide, by decide, fun i hi => ?_⟩
  simp only [List.mem_cons, List.not_mem_nil, or_false] at hi
  rcases hi with rfl | rfl
  · exact .inr ⟨31#6, rfl, by decide⟩
  · exact .inl rfl

/-- RefusedReadLocksTheSessionOut: both clauses, the second at the first index beyond Sha384. -/
theorem test_witness_refused_session_read :
    (∀ i ∈ [Instr.absorb 0x61#8, .status], i = .status ∨ ∃ b, i = .absorb b) ∧
      Instr.reset ∉ [Instr.absorb 0x62#8, .finish, .read 0#6, .startSha256] ∧
      digestBytes .sha384 ≤ (48#6).toNat := by
  refine ⟨fun i hi => ?_, by decide, by decide⟩
  simp only [List.mem_cons, List.not_mem_nil, or_false] at hi
  rcases hi with rfl | rfl
  · exact .inr ⟨0x61#8, rfl⟩
  · exact .inl rfl

/-- SessionDeliversTheHash, its READ clause: a byte of a hash at an index of 6 bits. -/
theorem test_witness_hash_byte : ((hashMessage .sha256 abc)[(31#6).toNat]?) = some 0xad#8 := by
  decide +kernel

end Sys2Proof.Tests
end

section
/-!
THEOREMS. Byte order (R10 of spec/00_scope.md): where each byte of `bytesBE` stands, `bytesBE` and
`natBE` at the least significant end, and that each inverts the other. `natBE` is a left fold, so
both inverses go by the last byte.
-/

namespace Sys2Proof.Machine

/-- One more byte is a factor of 256. -/
theorem two_pow_eight_mul_succ (n : Nat) : 2 ^ (8 * (n + 1)) = 256 * 2 ^ (8 * n) := by
  ring

/-- Byte `k` from the front of `BE_n(x)` is byte `n - 1 - k` of `x` from the low end (R10). -/
theorem bytesBE_getElem? {n k : Nat} (x : Nat) (hk : k < n) :
    (bytesBE n x)[k]? = some (BitVec.ofNat 8 (x / 2 ^ (8 * (n - 1 - k)))) := by
  induction n generalizing k with
  | zero => omega
  | succ n ih =>
    cases k with
    | zero => simp [bytesBE]
    | succ k =>
      have hidx : n + 1 - 1 - (k + 1) = n - 1 - k := by omega
      rw [hidx, bytesBE, List.getElem?_cons_succ, ih (by omega)]

/-- The last byte of `BE_(n+1)(x)` is the low byte of `x`; the others are `BE_n(x / 256)`. -/
theorem bytesBE_succ_eq_append (n x : Nat) :
    bytesBE (n + 1) x = bytesBE n (x / 256) ++ [BitVec.ofNat 8 x] := by
  induction n with
  | zero => simp [bytesBE]
  | succ n ih =>
    have hdiv : x / 2 ^ (8 * (n + 1)) = x / 256 / 2 ^ (8 * n) := by
      rw [two_pow_eight_mul_succ, Nat.div_div_eq_div_mul]
    rw [bytesBE, ih, hdiv, bytesBE, List.cons_append]

@[simp] theorem natBE_append_singleton (A : List Byte) (b : Byte) :
    natBE (A ++ [b]) = natBE A * 256 + b.toNat := by
  simp [natBE]

/-- `be` inverts `BE_n` on the low `8 n` bits, for every number (R10). -/
theorem natBE_bytesBE (n x : Nat) : natBE (bytesBE n x) = x % 2 ^ (8 * n) := by
  induction n generalizing x with
  | zero => simp [bytesBE, natBE, Nat.mod_one]
  | succ n ih =>
    calc natBE (bytesBE (n + 1) x)
        = x / 256 % 2 ^ (8 * n) * 256 + x % 256 := by
          simp [bytesBE_succ_eq_append, ih]
      _ = x % (256 * 2 ^ (8 * n)) := by rw [Nat.mod_mul]; omega
      _ = x % 2 ^ (8 * (n + 1)) := by rw [two_pow_eight_mul_succ]

/-- `BE` inverts `be` on every list of bytes (R10). -/
theorem bytesBE_natBE (A : List Byte) : bytesBE A.length (natBE A) = A := by
  induction A using List.reverseRecOn with
  | nil => rfl
  | append_singleton A b ih =>
    have hb : b.toNat < 256 := b.isLt
    have hrest : (natBE A * 256 + b.toNat) / 256 = natBE A := by omega
    have hlast : BitVec.ofNat 8 (natBE A * 256 + b.toNat) = b := by
      apply BitVec.eq_of_toNat_eq
      rw [BitVec.toNat_ofNat]
      omega
    rw [List.length_append, List.length_singleton, natBE_append_singleton, bytesBE_succ_eq_append,
      hrest, hlast, ih]

/-- Settles O38: the place of each byte by recursion from the front, both inverses by induction on
the last byte, and R10's two examples by evaluation. -/
theorem bigEndianConversionInverts : Obligations.BigEndianConversionInverts := by
  unfold Obligations.BigEndianConversionInverts
  refine ⟨fun n x k hk => bytesBE_getElem? x hk, bytesBE_length, fun n x hx => ?_, bytesBE_natBE,
    by decide, by decide⟩
  rw [natBE_bytesBE, Nat.mod_eq_of_lt hx]

end Sys2Proof.Machine
end

section
/-!
THEOREMS. What the decoder tells a proof about steps (R70 to R74, R84 of spec/30_encoding.md): a word
that decodes is the word of its command, a START and an ABSORB decode back, and the causes Decode
can give.
-/

namespace Sys2Proof

theorem fieldOp_toNat (w : CmdWord) : (fieldOp w).toNat = w.toNat / 0x1000 := by
  have := w.isLt
  rw [fieldOp, BitVec.extractLsb'_toNat, Nat.shiftRight_eq_div_pow]
  omega

theorem fieldRz_toNat (w : CmdWord) : (fieldRz w).toNat = w.toNat / 0x100 % 0x10 := by
  rw [fieldRz, BitVec.extractLsb'_toNat, Nat.shiftRight_eq_div_pow]

theorem fieldArg_toNat (w : CmdWord) : (fieldArg w).toNat = w.toNat % 0x100 := by
  simp [fieldArg, BitVec.extractLsb'_toNat]

/-- A word is put together from its three fields (R70). -/
theorem word_eq_of_fields {w u : CmdWord} (hop : fieldOp w = fieldOp u) (hrz : fieldRz w = fieldRz u)
    (harg : fieldArg w = fieldArg u) : w = u := by
  have hop' := congrArg BitVec.toNat hop
  have hrz' := congrArg BitVec.toNat hrz
  have harg' := congrArg BitVec.toNat harg
  simp only [fieldOp_toNat, fieldRz_toNat, fieldArg_toNat] at hop' hrz' harg'
  exact BitVec.eq_of_toNat_eq (by omega)

theorem decodeNoOperand_ok {i j : Instr} {arg : BitVec 8} (h : decodeNoOperand i arg = .ok j) :
    arg = 0#8 ∧ j = i := by
  unfold decodeNoOperand at h
  split at h <;> simp_all

theorem decodeStart_ok {i : Instr} {arg : BitVec 8} (h : decodeStart arg = .ok i) :
    ∃ v, i = startOf v ∧ arg = (Machine.variantCode v).setWidth 8 := by
  unfold decodeStart at h
  split at h
  · cases h
  · rename_i hrest
    have hfields : arg = arg.extractLsb' 2 6 ++ arg.extractLsb' 0 2 := by
      rw [BitVec.extractLsb'_append_extractLsb'_eq_extractLsb' (by rfl)]
      simp
    rw [not_not.1 hrest] at hfields
    split at h
    · cases h
    · split at h
      · rename_i h0
        exact ⟨.sha256, (Except.ok.inj h).symm, by rw [hfields, h0]; rfl⟩
      · split at h
        · rename_i h1
          exact ⟨.sha384, (Except.ok.inj h).symm, by rw [hfields, h1]; rfl⟩
        · rename_i h3 h0 h1
          have h2 : arg.extractLsb' 0 2 = 2#2 := by
            generalize arg.extractLsb' 0 2 = x at h3 h0 h1
            revert x; decide
          exact ⟨.sha512, (Except.ok.inj h).symm, by rw [hfields, h2]; rfl⟩

theorem decodeRead_ok {j : Instr} {arg : BitVec 8} (h : decodeRead arg = .ok j) :
    ∃ i : BitVec 6, j = .read i ∧ arg = i.setWidth 8 := by
  unfold decodeRead at h
  split at h
  · cases h
  · rename_i hrest
    have hfields : arg = arg.extractLsb' 6 2 ++ arg.extractLsb' 0 6 := by
      rw [BitVec.extractLsb'_append_extractLsb'_eq_extractLsb' (by rfl)]
      simp
    refine ⟨_, (Except.ok.inj h).symm, ?_⟩
    rw [not_not.1 hrest] at hfields
    rw [BitVec.setWidth_eq_append (by decide)]
    exact hfields

/-- The fields of the word of an ABSORB (R70, R72). -/
theorem fields_encode_absorb (b : Byte) : fieldOp (encode (.absorb b)) = 3#4 ∧
    fieldRz (encode (.absorb b)) = 0#4 ∧ fieldArg (encode (.absorb b)) = b := by
  have hb := b.isLt
  have hw : (encode (.absorb b)).toNat = 0x3000 + b.toNat := by
    simp only [encode, BitVec.toNat_add, BitVec.toNat_ofNat, BitVec.toNat_setWidth]
    omega
  refine ⟨?_, ?_, ?_⟩ <;> apply BitVec.eq_of_toNat_eq
  · simp only [fieldOp_toNat, hw, BitVec.toNat_ofNat]; omega
  · simp only [fieldRz_toNat, hw, BitVec.toNat_ofNat]; omega
  · simp only [fieldArg_toNat, hw]; omega

/-- The fields of the word of a READ (R70, R72). -/
theorem fields_encode_read (i : BitVec 6) : fieldOp (encode (.read i)) = 5#4 ∧
    fieldRz (encode (.read i)) = 0#4 ∧ fieldArg (encode (.read i)) = i.setWidth 8 := by
  have hi := i.isLt
  have hw : (encode (.read i)).toNat = 0x5000 + i.toNat := by
    simp only [encode, BitVec.toNat_add, BitVec.toNat_ofNat, BitVec.toNat_setWidth]
    omega
  refine ⟨?_, ?_, ?_⟩ <;> apply BitVec.eq_of_toNat_eq
  · simp only [fieldOp_toNat, hw, BitVec.toNat_ofNat]; omega
  · simp only [fieldRz_toNat, hw, BitVec.toNat_ofNat]; omega
  · simp only [fieldArg_toNat, hw, BitVec.toNat_setWidth]; omega

/-- A word that decodes is the word of its command: no bit of it is dropped (R70 to R73). -/
theorem encode_of_decode {w : CmdWord} {i : Instr} (h : decode w = .ok i) : encode i = w := by
  unfold decode at h
  split at h
  · cases h
  rename_i hlegal
  split at h
  · cases h
  rename_i hrz
  rw [not_not] at hrz
  split at h
  · rename_i hop
    obtain ⟨harg, rfl⟩ := decodeNoOperand_ok h
    exact (word_eq_of_fields hop hrz harg).symm
  rename_i hop1
  split at h
  · rename_i hop
    obtain ⟨v, rfl, harg⟩ := decodeStart_ok h
    refine (word_eq_of_fields ?_ ?_ ?_).symm <;> [rw [hop]; rw [hrz]; rw [harg]] <;>
      cases v <;> rfl
  rename_i hop2
  split at h
  · rename_i hop
    obtain rfl := Except.ok.inj h
    obtain ⟨hop', hrz', harg'⟩ := fields_encode_absorb (fieldArg w)
    exact word_eq_of_fields (hop'.trans hop.symm) (hrz'.trans hrz.symm) harg'
  rename_i hop3
  split at h
  · rename_i hop
    obtain ⟨harg, rfl⟩ := decodeNoOperand_ok h
    exact (word_eq_of_fields hop hrz harg).symm
  rename_i hop4
  split at h
  · rename_i hop
    obtain ⟨i, rfl, harg⟩ := decodeRead_ok h
    obtain ⟨hop', hrz', harg'⟩ := fields_encode_read i
    exact word_eq_of_fields (hop'.trans hop.symm) (hrz'.trans hrz.symm) (harg'.trans harg.symm)
  rename_i hop5
  obtain ⟨harg, rfl⟩ := decodeNoOperand_ok h
  have hop6 : fieldOp w = 6#4 := by bv_omega
  exact (word_eq_of_fields hop6 hrz harg).symm

theorem decode_encode_startOf (v : Variant) : decode (encode (startOf v)) = .ok (startOf v) := by
  cases v <;> rfl

theorem decode_encode_absorb (b : Byte) : decode (encode (.absorb b)) = .ok (.absorb b) := by
  obtain ⟨hop, hrz, harg⟩ := fields_encode_absorb b
  simp [decode, hop, hrz, harg]

/-- BAD_INDEX is no cause that Decode gives: it needs the state (R191). -/
theorem ne_badIndex_of_decode {w : CmdWord} {c : ProtocolError} (h : decode w = .error c) :
    c ≠ .badIndex := by
  have hno (i : Instr) (arg : BitVec 8) : decodeNoOperand i arg ≠ .error .badIndex := by
    unfold decodeNoOperand
    split <;> simp
  have hstart (arg : BitVec 8) : decodeStart arg ≠ .error .badIndex := by
    unfold decodeStart
    split_ifs <;> simp
  have hread (arg : BitVec 8) : decodeRead arg ≠ .error .badIndex := by
    unfold decodeRead
    split <;> simp
  rintro rfl
  unfold decode at h
  split_ifs at h <;> simp [hno, hstart, hread] at h

end Sys2Proof
end

section
/-!
THEOREMS. What a command or a step that answers a next state has done, said once: `Effect`, with
one case per way a command can be accepted, refused or dropped, and `step_effect`, which adds the
pin, the waiting core and the words that are no command. FINISH is there with the contents of BUF it
leaves, `finishBuf`.
-/

namespace Sys2Proof.Machine

/-! ### The step, by what the port shows -/

theorem step_of_nil {s : State} (h : s.port = []) : step s = .next s := by
  simp [step, fetch, h, awaitHost]

theorem step_of_rst {s : State} {rest : List PortInput} (h : s.port = .rst :: rest) :
    step s = .next (resetCore { s with port := rest }) := by
  simp [step, fetch, h, execPin]

theorem step_of_decode {s : State} {w : CmdWord} {rest : List PortInput} {i : Instr}
    (h : s.port = .word w :: rest) (hdec : decode w = .ok i) :
    step s = exec i { s with port := rest } := by
  simp [step, fetch, h, hdec]

theorem step_of_decode_error {s : State} {w : CmdWord} {rest : List PortInput}
    {c : ProtocolError} (h : s.port = .word w :: rest) (hdec : decode w = .error c) :
    step s = execIllegal c { s with port := rest } := by
  simp [step, fetch, h, hdec]

/-! ### The contents of BUF that FINISH leaves -/

/-- The terminator at `f` and zeros up to the index `stop` (R107). -/
def terminated (m : Memory) (f stop : Nat) : Memory :=
  Memory.zeroFill (Memory.write m f 0x80#8) (f + 1) (stop - 1 - f)

/-- BUF up to the suffix: the terminator and zeros, or, where the suffix does not fit, the second
block's zeros over them (R107). -/
def beforeSuffix (v : Variant) (f : Nat) (m : Memory) : Memory :=
  if f < blockBytes v - suffixBytes v then terminated m f (blockBytes v - suffixBytes v)
  else Memory.zeroFill (terminated m f (blockBytes v)) 0 (blockBytes v - suffixBytes v)

/-- BUF after an accepted FINISH (R107). -/
def finishBuf (v : Variant) (s : State) : Memory :=
  Memory.writeBE (beforeSuffix v (fill v s.len) s.buf) (blockBytes v - suffixBytes v)
    (suffixBytes v) (suffixValue v s.len)

theorem Memory.mem_zeroFill {m : Memory} {addr n : Nat} {x : Host.Cell}
    (h : x ∈ Memory.zeroFill m addr n) : (addr ≤ x.1 ∧ x.1 < addr + n) ∨ x ∈ m := by
  simpa using Memory.mem_writeBytes h

theorem Memory.mem_writeBE {m : Memory} {addr n v : Nat} {x : Host.Cell}
    (h : x ∈ Memory.writeBE m addr n v) : (addr ≤ x.1 ∧ x.1 < addr + n) ∨ x ∈ m := by
  simpa using Memory.mem_writeBytes h

theorem Memory.read_writeBE_outside (m : Memory) {addr n v i : Nat}
    (h : i < addr ∨ addr + n ≤ i) :
    Memory.read (Memory.writeBE m addr n v) i = Memory.read m i := by
  rw [Memory.writeBE, Memory.read_writeBytes, if_neg (by rw [bytesBE_length]; omega)]

theorem Memory.read_zeroFill_outside (m : Memory) {addr n i : Nat} (h : i < addr ∨ addr + n ≤ i) :
    Memory.read (Memory.zeroFill m addr n) i = Memory.read m i := by
  rw [Memory.read_zeroFill, if_neg (by omega)]

/-- A run of bytes written to an empty space is all that it holds. -/
theorem Memory.read_writeBytes_nil (bs : List Byte) (i : Nat) :
    Memory.read (Memory.writeBytes [] 0 bs) i = bs[i]? := by
  rw [Memory.read_writeBytes]
  split
  · rfl
  · rename_i hi
    rw [List.getElem?_eq_none (by omega), Memory.read]

theorem wf_terminated {m : Memory} (f stop : Nat) (h : Memory.wf m) :
    Memory.wf (terminated m f stop) :=
  Memory.wf_zeroFill _ _ (Memory.wf_write _ _ h)

theorem mem_terminated {m : Memory} {f stop : Nat} {x : Host.Cell} (hf : f < stop)
    (h : x ∈ terminated m f stop) : x.1 < stop ∨ x ∈ m := by
  rcases Memory.mem_zeroFill h with h | h
  · exact .inl (by omega)
  · rcases Memory.mem_write h with rfl | h
    · exact .inl hf
    · exact .inr h

theorem read_terminated_outside (m : Memory) {f stop i : Nat} (hf : f < stop)
    (h : i < f ∨ stop ≤ i) : Memory.read (terminated m f stop) i = Memory.read m i := by
  rw [terminated, Memory.read_zeroFill_outside _ (by omega),
    Memory.read_write_other _ _ (by omega)]

theorem wf_finishBuf (v : Variant) {s : State} (h : Memory.wf s.buf) :
    Memory.wf (finishBuf v s) := by
  refine Memory.wf_writeBE _ _ _ ?_
  unfold beforeSuffix
  split
  · exact wf_terminated _ _ h
  · exact Memory.wf_zeroFill _ _ (wf_terminated _ _ h)

/-- FINISH lists nothing beyond the block but what was listed. -/
theorem mem_finishBuf {v : Variant} {s : State} {x : Host.Cell} (h : x ∈ finishBuf v s) :
    x.1 < blockBytes v ∨ x ∈ s.buf := by
  have hS := suffixBytes_lt v
  have hf := fill_lt v s.len
  rcases Memory.mem_writeBE h with h | h
  · exact .inl (by omega)
  · unfold beforeSuffix at h
    split at h
    · rename_i hfit
      exact (mem_terminated hfit h).imp_left (by omega)
    · rcases Memory.mem_zeroFill h with h | h
      · exact .inl (by omega)
      · exact mem_terminated hf h

/-- FINISH does not write beyond the block. -/
theorem read_finishBuf_of_blockBytes_le {v : Variant} (s : State) {i : Nat}
    (hi : blockBytes v ≤ i) : Memory.read (finishBuf v s) i = Memory.read s.buf i := by
  have hS := suffixBytes_lt v
  rw [finishBuf, Memory.read_writeBE_outside _ (by omega), beforeSuffix]
  split
  · rename_i hfit
    exact read_terminated_outside _ hfit (by omega)
  · rw [Memory.read_zeroFill_outside _ (by omega)]
    exact read_terminated_outside _ (fill_lt v s.len) (by omega)

/-- Where the suffix fits, FINISH leaves the message bytes where they are. -/
theorem read_finishBuf_of_lt_fill {v : Variant} {s : State} {i : Nat}
    (hfit : fill v s.len < blockBytes v - suffixBytes v) (hi : i < fill v s.len) :
    Memory.read (finishBuf v s) i = Memory.read s.buf i := by
  rw [finishBuf, Memory.read_writeBE_outside _ (by omega), beforeSuffix, if_pos hfit]
  exact read_terminated_outside _ hfit (.inl hi)

/-! ### ProcessBlock and FINISH, where they complete -/

/-- What `ProcessBlock` leaves as it found it, where it completes (R180). -/
theorem processBlock_ok {v : Variant} {s t : State} (h : processBlock v s = .ok t) :
    ∃ ws r x, t = { s with schedule := ws, rounds := r, hash := x } := by
  rcases processBlock_cases h with ⟨_, ws, r, _, ht⟩ | ⟨_, _, _, ht⟩
  · exact ⟨ws, r, _, Except.ok.inj ht⟩
  · cases ht

/-- What an accepted FINISH makes of `s`: BUF as `finishBuf`, some schedule and round registers, the
hash state `x` and its digest, phase DONE (R107). -/
def finishedState (v : Variant) (ws : Vector Word64 80) (r x : Words8 64) (s : State) : State :=
  { s with
    buf := finishBuf v s
    schedule := ws
    rounds := r
    hash := x
    digest := Memory.writeBytes [] 0 (formatDigest v x)
    phase := .done }

theorem sealMessage_ok {v : Variant} {s t : State} (h : sealMessage v s = .ok t) :
    ∃ ws r x, t = { s with
      buf := Memory.writeBE s.buf (blockBytes v - suffixBytes v) (suffixBytes v)
        (suffixValue v s.len)
      schedule := ws
      rounds := r
      hash := x
      digest := Memory.writeBytes [] 0 (formatDigest v x)
      phase := .done } := by
  rcases sealMessage_cases h with ⟨_, ws, r, _, ht⟩ | ⟨_, _, _, ht⟩
  · exact ⟨ws, r, _, Except.ok.inj ht⟩
  · cases ht

theorem padOneBlock_ok {v : Variant} {s t : State}
    (hf : fill v s.len < blockBytes v - suffixBytes v)
    (h : padOneBlock v (fill v s.len) s = .ok t) : ∃ ws r x, t = finishedState v ws r x s := by
  obtain ⟨ws, r, x, rfl⟩ := sealMessage_ok h
  exact ⟨ws, r, x, by simp [finishedState, finishBuf, beforeSuffix, hf, terminated, setBuf]⟩

theorem padTwoBlocks_ok {v : Variant} {s t : State}
    (hf : blockBytes v - suffixBytes v ≤ fill v s.len)
    (h : padTwoBlocks v (fill v s.len) s = .ok t) : ∃ ws r x, t = finishedState v ws r x s := by
  simp only [padTwoBlocks] at h
  split at h
  · cases h
  · rename_i u hu
    obtain ⟨_, _, _, rfl⟩ := processBlock_ok hu
    obtain ⟨ws, r, x, rfl⟩ := sealMessage_ok h
    exact ⟨ws, r, x, by
      simp [finishedState, finishBuf, beforeSuffix, Nat.not_lt.2 hf, terminated, setBuf]⟩

/-! ### The effects of a command -/

/-- What an ABSORB that answers a next state has done. -/
theorem exec_absorb_next {b : Byte} {s t : State} (h : exec (.absorb b) s = .next t) :
    (s.err = true ∧ t = s) ∨
    (s.err = false ∧ s.phase ≠ .absorbing ∧ t = recordError .badPhase s) ∨
    (∃ v, s.err = false ∧ s.phase = .absorbing ∧ s.var = .sel v ∧
      fill v s.len + 1 < blockBytes v ∧ t = storeByte (fill v s.len) b s) ∨
    (∃ v ws r x, s.err = false ∧ s.phase = .absorbing ∧ s.var = .sel v ∧
      fill v s.len + 1 = blockBytes v ∧
      t = { storeByte (fill v s.len) b s with schedule := ws, rounds := r, hash := x }) := by
  rcases exec_absorb_cases h with ⟨herr, ht⟩ | ⟨herr, hphase, ht⟩ | ⟨-, -, -, ht⟩ |
    ⟨v, herr, hphase, hvar, hfill, ht⟩ | ⟨v, herr, hphase, hvar, hfill, ht⟩
  · cases ht; exact .inl ⟨herr, rfl⟩
  · cases ht; exact .inr (.inl ⟨herr, hphase, rfl⟩)
  · cases ht
  · cases ht; exact .inr (.inr (.inl ⟨v, herr, hphase, hvar, hfill, rfl⟩))
  · obtain ⟨ws, r, x, rfl⟩ := processBlock_ok (outcomeOf_next.1 ht.symm)
    exact .inr (.inr (.inr ⟨v, ws, r, x, herr, hphase, hvar, hfill, rfl⟩))

/-- What a FINISH that answers a next state has done. -/
theorem exec_finish_next {s t : State} (h : exec .finish s = .next t) :
    (s.err = true ∧ t = s) ∨
    (s.err = false ∧ s.phase ≠ .absorbing ∧ t = recordError .badPhase s) ∨
    (∃ v ws r x, s.err = false ∧ s.phase = .absorbing ∧ s.var = .sel v ∧
      t = finishedState v ws r x s) := by
  rcases exec_finish_cases h with ⟨herr, ht⟩ | ⟨herr, hphase, ht⟩ | ⟨-, -, -, ht⟩ |
    ⟨v, herr, hphase, hvar, hfill, ht⟩ | ⟨v, herr, hphase, hvar, hfill, ht⟩
  · cases ht; exact .inl ⟨herr, rfl⟩
  · cases ht; exact .inr (.inl ⟨herr, hphase, rfl⟩)
  · cases ht
  · obtain ⟨ws, r, x, rfl⟩ := padOneBlock_ok hfill (outcomeOf_next.1 ht.symm)
    exact .inr (.inr ⟨v, ws, r, x, herr, hphase, hvar, rfl⟩)
  · obtain ⟨ws, r, x, rfl⟩ := padTwoBlocks_ok hfill (outcomeOf_next.1 ht.symm)
    exact .inr (.inr ⟨v, ws, r, x, herr, hphase, hvar, rfl⟩)

/-- What a READ that answers a next state has done. -/
theorem exec_read_next {k : BitVec 6} {s t : State} (h : exec (.read k) s = .next t) :
    (s.err = true ∧ t = s) ∨
    (s.err = false ∧ s.phase ≠ .done ∧ t = recordError .badPhase s) ∨
    (∃ v, s.err = false ∧ s.phase = .done ∧ s.var = .sel v ∧ digestBytes v ≤ k.toNat ∧
      t = recordError .badIndex s) ∨
    (∃ v b, s.err = false ∧ s.phase = .done ∧ s.var = .sel v ∧ k.toNat < digestBytes v ∧
      Memory.read s.digest k.toNat = some b ∧ t = respond b s) := by
  rcases exec_read_cases h with ⟨herr, ht⟩ | ⟨herr, hphase, ht⟩ | ⟨-, -, -, ht⟩ |
    ⟨v, herr, hphase, hvar, hk, ht⟩ | ⟨v, b, herr, hphase, hvar, hk, hb, ht⟩ |
    ⟨-, -, -, -, -, -, ht⟩ <;> cases ht
  · exact .inl ⟨herr, rfl⟩
  · exact .inr (.inl ⟨herr, hphase, rfl⟩)
  · exact .inr (.inr (.inl ⟨v, herr, hphase, hvar, hk, rfl⟩))
  · exact .inr (.inr (.inr ⟨v, b, herr, hphase, hvar, hk, hb, rfl⟩))

/-- The phase a command needs, where it needs one (R182). -/
def neededPhase : Instr → Option Phase
  | .absorb _ => some .absorbing
  | .finish => some .absorbing
  | .read _ => some .done
  | _ => none

/-- The ways the command `i` can lead from `s` to a next state (R182, R194). -/
inductive Effect (i : Instr) (s : State) : State → Prop
  /-- Dropped by the lockout (R194). -/
  | dropped (herr : s.err = true) (hreset : i ≠ .reset) (hstatus : i ≠ .status) : Effect i s s
  /-- Refused in a phase other than the one it needs (R192, R193). -/
  | outOfPhase (p : Phase) (herr : s.err = false) (hi : neededPhase i = some p)
      (hphase : s.phase ≠ p) : Effect i s (recordError .badPhase s)
  /-- READ beyond the digest (R167). -/
  | beyondDigest (v : Variant) (k : BitVec 6) (hi : i = .read k) (herr : s.err = false)
      (hphase : s.phase = .done) (hvar : s.var = .sel v) (hk : digestBytes v ≤ k.toNat) :
      Effect i s (recordError .badIndex s)
  | reset (hi : i = .reset) : Effect i s (resetCore s)
  | status (hi : i = .status) : Effect i s (respond (statusByte s) s)
  | opened (v : Variant) (hi : i = startOf v) (herr : s.err = false) : Effect i s (openSession v s)
  /-- ABSORB of a byte that leaves the block incomplete. -/
  | stored (v : Variant) (b : Byte) (hi : i = .absorb b) (herr : s.err = false)
      (hphase : s.phase = .absorbing) (hvar : s.var = .sel v)
      (hfill : fill v s.len + 1 < blockBytes v) : Effect i s (storeByte (fill v s.len) b s)
  /-- ABSORB of the byte that completes the block, which is processed at once. -/
  | completed (v : Variant) (b : Byte) (ws : Vector Word64 80) (r x : Words8 64)
      (hi : i = .absorb b) (herr : s.err = false) (hphase : s.phase = .absorbing)
      (hvar : s.var = .sel v) (hfill : fill v s.len + 1 = blockBytes v) :
      Effect i s { storeByte (fill v s.len) b s with schedule := ws, rounds := r, hash := x }
  | finished (v : Variant) (ws : Vector Word64 80) (r x : Words8 64) (hi : i = .finish)
      (herr : s.err = false) (hphase : s.phase = .absorbing) (hvar : s.var = .sel v) :
      Effect i s (finishedState v ws r x s)
  /-- An accepted READ. -/
  | digestByte (v : Variant) (k : BitVec 6) (b : Byte) (hi : i = .read k) (herr : s.err = false)
      (hphase : s.phase = .done) (hvar : s.var = .sel v) (hk : k.toNat < digestBytes v)
      (hb : Memory.read s.digest k.toNat = some b) : Effect i s (respond b s)

theorem exec_startOf_effect {v : Variant} {s t : State} (h : exec (startOf v) s = .next t) :
    Effect (startOf v) s t := by
  rcases exec_start_cases h with ⟨herr, ht⟩ | ⟨herr, ht⟩ <;> cases ht
  · exact .dropped herr (by cases v <;> decide) (by cases v <;> decide)
  · exact .opened v rfl herr

/-- Every command that answers a next state has one of the effects. -/
theorem exec_effect {i : Instr} {s t : State} (h : exec i s = .next t) : Effect i s t := by
  cases i with
  | reset => cases h; exact .reset rfl
  | status => cases h; exact .status rfl
  | startSha256 => exact exec_startOf_effect (v := .sha256) h
  | startSha384 => exact exec_startOf_effect (v := .sha384) h
  | startSha512 => exact exec_startOf_effect (v := .sha512) h
  | absorb b =>
    rcases exec_absorb_next h with ⟨herr, rfl⟩ | ⟨herr, hphase, rfl⟩ |
      ⟨v, herr, hphase, hvar, hfill, rfl⟩ | ⟨v, ws, r, x, herr, hphase, hvar, hfill, rfl⟩
    · exact .dropped herr (by simp) (by simp)
    · exact .outOfPhase _ herr rfl hphase
    · exact .stored v b rfl herr hphase hvar hfill
    · exact .completed v b ws r x rfl herr hphase hvar hfill
  | finish =>
    rcases exec_finish_next h with ⟨herr, rfl⟩ | ⟨herr, hphase, rfl⟩ |
      ⟨v, ws, r, x, herr, hphase, hvar, rfl⟩
    · exact .dropped herr (by simp) (by simp)
    · exact .outOfPhase _ herr rfl hphase
    · exact .finished v ws r x rfl herr hphase hvar
  | read k =>
    rcases exec_read_next h with ⟨herr, rfl⟩ | ⟨herr, hphase, rfl⟩ |
      ⟨v, herr, hphase, hvar, hk, rfl⟩ | ⟨v, b, herr, hphase, hvar, hk, hb, rfl⟩
    · exact .dropped herr (by simp) (by simp)
    · exact .outOfPhase _ herr rfl hphase
    · exact .beyondDigest v k rfl herr hphase hvar hk
    · exact .digestByte v k b rfl herr hphase hvar hk hb

/-- Every step that answers a next state has waited, has taken `rst`, or has taken a word, and a
word has the effect of its command or is no command (R182). -/
theorem step_effect {s t : State} (h : step s = .next t) :
    t = s ∨
    (∃ rest, s.port = .rst :: rest ∧ t = resetCore { s with port := rest }) ∨
    (∃ i rest, s.port = .word (encode i) :: rest ∧ Effect i { s with port := rest } t) ∨
    (∃ w rest, s.port = .word w :: rest ∧ s.err = true ∧ t = { s with port := rest }) ∨
    (∃ w rest c, s.port = .word w :: rest ∧ s.err = false ∧ c ≠ .badIndex ∧
      t = recordError c { s with port := rest }) := by
  rcases step_cases h with ⟨-, ht⟩ | ⟨rest, hport, ht⟩ | ⟨w, rest, i, hport, hdec, hexec⟩ |
    ⟨w, rest, c, hport, hdec, hexec⟩
  · cases ht; exact .inl rfl
  · cases ht; exact .inr (.inl ⟨rest, hport, rfl⟩)
  · obtain rfl := encode_of_decode hdec
    exact .inr (.inr (.inl ⟨i, rest, hport, exec_effect hexec⟩))
  · rcases execIllegal_cases hexec with ⟨herr, ht⟩ | ⟨herr, ht⟩ <;> cases ht
    · exact .inr (.inr (.inr (.inl ⟨w, rest, hport, herr, rfl⟩)))
    · exact .inr (.inr (.inr (.inr
        ⟨w, rest, c, hport, herr, ne_badIndex_of_decode hdec, rfl⟩)))

end Sys2Proof.Machine
end

section
/-!
THEOREMS. The invariant (R38 of spec/10_state.md): that reset has it, and that each effect of a
command, and so each step, keeps it.
-/

namespace Sys2Proof.Machine

variable {s : State}

/-- Settles O33: BUF and DIGEST list nothing, and PHASE is IDLE. -/
theorem invariantHoldsAtReset : Obligations.InvariantHoldsAtReset := by
  unfold Obligations.InvariantHoldsAtReset
  constructor <;> simp [State.reset, Memory.wf]

/-! ### What the invariant does not speak of -/

theorem State.Inv.with_port (h : State.Inv s) (p : List PortInput) :
    State.Inv { s with port := p } := { h with }

theorem State.Inv.respond (h : State.Inv s) (b : Byte) : State.Inv (respond b s) := { h with }

theorem State.Inv.with_datapath (h : State.Inv s) (ws : Vector Word64 80) (r x : Words8 64) :
    State.Inv { s with schedule := ws, rounds := r, hash := x } := { h with }

/-! ### What each update keeps -/

/-- A reset gives the invariant back whatever stood there before (R36). -/
theorem inv_resetCore (s : State) : State.Inv (resetCore s) := by
  constructor <;> simp [Memory.wf]

theorem State.Inv.recordError (h : State.Inv s) {c : ProtocolError}
    (hc : c = .badIndex → s.phase = .done) : State.Inv (recordError c s) where
  __ := h
  err_iff := by cases c <;> simp [errorCode]
  code_le := by cases c <;> simp [errorCode]
  badIndex_done := fun hcode => hc (by cases c <;> simp [errorCode] at hcode ⊢)

/-- START: LEN is 0, so no byte of BUF has to hold a value yet (R166). -/
theorem State.Inv.openSession (h : State.Inv s) (herr : s.err = false) (v : Variant) :
    State.Inv (openSession v s) where
  __ := h
  idle_iff := by simp
  badIndex_done := by simp [h.err_iff.1 herr]
  len_bytes := by simp
  digest_wf := by simp [Memory.wf]
  buf_held := by simp [fill_eq]
  digest_lost := by simp
  digest_held := by simp

theorem blockBytes_le (v : Variant) : blockBytes v ≤ 128 := by cases v <;> decide

/-- ABSORB: the byte at `fill` joins those below it; when it completes the block none is left to
hold (R106). -/
theorem State.Inv.storeByte (h : State.Inv s) (b : Byte) {v : Variant}
    (hphase : s.phase = .absorbing) (hvar : s.var = .sel v) :
    State.Inv (storeByte (fill v s.len) b s) where
  __ := h
  len_bytes := fun _ => by
    have := h.len_bytes (by simp [hphase])
    simp only [storeByte_len, BitVec.toNat_add, BitVec.toNat_ofNat]
    omega
  buf_wf := Memory.wf_write _ _ h.buf_wf
  buf_range := fun x hx => by
    have := fill_lt v s.len
    have := blockBytes_le v
    rcases Memory.mem_write hx with rfl | hx
    · show fill v s.len < 128
      omega
    · exact h.buf_range x hx
  buf_held := fun _ u hu i hi => by
    obtain rfl : v = u := by simpa [hvar] using hu
    rw [storeByte_buf, Memory.read_write]
    split
    · rfl
    · rename_i hne
      rw [storeByte_len, fill_add_eight] at hi
      have := Nat.mod_le (fill v s.len + 1) (blockBytes v)
      exact h.buf_held hphase v hvar i (by omega)

/-- FINISH: DIGEST holds the `DL` bytes of the digest and no other (R107, R160). -/
theorem State.Inv.finishedState (h : State.Inv s) {v : Variant} (ws : Vector Word64 80)
    (r x : Words8 64) (hphase : s.phase = .absorbing) (hvar : s.var = .sel v) :
    State.Inv (finishedState v ws r x s) where
  __ := h
  idle_iff := by simp [Machine.finishedState, hvar]
  badIndex_done := fun _ => rfl
  len_bytes := fun _ => h.len_bytes (by simp [hphase])
  buf_wf := wf_finishBuf v h.buf_wf
  buf_range := fun y hy => by
    have := blockBytes_le v
    rcases mem_finishBuf hy with hy | hy
    · omega
    · exact h.buf_range y hy
  digest_wf := Memory.wf_writeBytes _ _ List.Pairwise.nil
  buf_held := by simp [Machine.finishedState]
  digest_lost := by simp [Machine.finishedState]
  digest_held := fun _ u hu i => by
    obtain rfl : v = u := by simpa [Machine.finishedState, hvar] using hu
    simp [Machine.finishedState, Memory.read_writeBytes_nil, formatDigest_length]

/-- Every effect of a command keeps the invariant. -/
theorem Effect.inv {i : Instr} {t : State} (he : Effect i s t) (h : State.Inv s) :
    State.Inv t := by
  cases he with
  | dropped => exact h
  | outOfPhase => exact h.recordError (by simp)
  | beyondDigest _ _ _ _ hphase => exact h.recordError fun _ => hphase
  | reset => exact inv_resetCore s
  | status => exact h.respond _
  | opened v _ herr => exact h.openSession herr v
  | stored v b _ _ hphase hvar => exact h.storeByte b hphase hvar
  | completed v b ws r x _ _ hphase hvar => exact (h.storeByte b hphase hvar).with_datapath ws r x
  | finished v ws r x _ _ hphase hvar => exact h.finishedState ws r x hphase hvar
  | digestByte => exact h.respond _

/-- Settles O34: by the effects a step can have, each of which keeps the invariant. -/
theorem stepKeepsTheInvariant : Obligations.StepKeepsTheInvariant := by
  unfold Obligations.StepKeepsTheInvariant
  intro s t h hstep
  rcases step_effect hstep with rfl | ⟨rest, -, rfl⟩ | ⟨i, rest, -, he⟩ | ⟨_, rest, -, -, rfl⟩ |
    ⟨_, rest, c, -, -, hc, rfl⟩
  · exact h
  · exact inv_resetCore _
  · exact he.inv (h.with_port rest)
  · exact h.with_port rest
  · exact (h.with_port rest).recordError (absurd · hc)

end Sys2Proof.Machine
end

section
/-!
THEOREMS. No step reads a register that holds no value (R36, R29, R30 of spec/10_state.md): each
update, each shared operation and each command takes two states that agree wherever a register holds
a value to outcomes that agree likewise.
-/

namespace Sys2Proof.Machine

/-! ### ProcessBlock and FINISH as sequences -/

/-- `ProcessBlock` for a variant, where a byte of BUF holds no value (log 4). -/
theorem processBlock_of_error {v : Variant} {s : State} {i : Nat}
    (h : Memory.readRange s.buf 0 (blockBytes v) = .error i) :
    processBlock v s = .error (.bufNoValue i) := by
  cases v <;> exact processOn_of_error h

theorem sealMessage_eq_bind (v : Variant) (s : State) :
    sealMessage v s =
      (processBlock v (setBuf (Memory.writeBE s.buf (blockBytes v - suffixBytes v) (suffixBytes v)
        (suffixValue v s.len)) s)).bind fun t => .ok (storeDigest (formatDigest v t.hash) t) := by
  simp only [sealMessage, Except.bind]
  split <;> simp [*]

theorem padTwoBlocks_eq_bind (v : Variant) (f : Nat) (s : State) :
    padTwoBlocks v f s =
      (processBlock v (setBuf (terminated s.buf f (blockBytes v)) s)).bind fun t =>
        sealMessage v (setBuf (Memory.zeroFill t.buf 0 (blockBytes v - suffixBytes v)) t) := by
  simp only [padTwoBlocks, Except.bind, terminated]
  split <;> simp [*]

variable {s t : State}

/-! ### The updates -/

theorem State.SameValues.with_port (h : State.SameValues s t) (p : List PortInput) :
    State.SameValues { s with port := p } { t with port := p } where
  __ := h
  port := rfl

theorem State.SameValues.respond (h : State.SameValues s t) (b : Byte) :
    State.SameValues (respond b s) (respond b t) where
  __ := h
  out := by simp [h.out]

theorem State.SameValues.recordError (h : State.SameValues s t) (c : ProtocolError) :
    State.SameValues (recordError c s) (recordError c t) where
  __ := h
  err := rfl
  errCode := rfl

/-- A reset leaves no value that could differ but LEN and H, which hold none in IDLE. -/
theorem State.SameValues.resetCore (h : State.SameValues s t) :
    State.SameValues (resetCore s) (resetCore t) := by
  constructor <;> simp [h.port, h.out]

/-- START writes LEN and H, so they agree afterwards even where they held no value before. -/
theorem State.SameValues.openSession (h : State.SameValues s t) (v : Variant) :
    State.SameValues (openSession v s) (openSession v t) := by
  constructor <;> simp [h.err, h.errCode, h.buf, h.port, h.out]

theorem State.SameValues.setBuf (h : State.SameValues s t) (m : Memory) :
    State.SameValues (setBuf m s) (setBuf m t) where
  __ := h
  buf := rfl

theorem State.SameValues.storeByte (h : State.SameValues s t) (f : Nat) (b : Byte) :
    State.SameValues (storeByte f b s) (storeByte f b t) where
  __ := h
  buf := by simp [h.buf]
  len := fun hphase => by simp [h.len hphase]

theorem State.SameValues.storeDigest (h : State.SameValues s t) (hphase : s.phase ≠ .idle)
    (bytes : List Byte) : State.SameValues (storeDigest bytes s) (storeDigest bytes t) where
  __ := h
  phase := rfl
  digest := rfl
  len := fun _ => h.len hphase
  hash := fun _ => h.hash hphase

theorem State.SameValues.statusByte_eq (h : State.SameValues s t) : statusByte s = statusByte t := by
  simp [statusByte, h.phase, h.var, h.err, h.errCode]

/-! ### The shared operations -/

theorem SameOutcome.unlessLocked {perform : State → Host.Outcome State Fault Refusal}
    (h : State.SameValues s t) (hperform : SameOutcome (perform s) (perform t)) :
    SameOutcome (unlessLocked perform s) (unlessLocked perform t) := by
  simp only [Machine.unlessLocked, ← h.err]
  split
  · exact h
  · exact hperform

theorem SameOutcome.withVariant {k l : Variant → Host.Outcome State Fault Refusal}
    (h : State.SameValues s t) (hk : ∀ v, SameOutcome (k v) (l v)) :
    SameOutcome (withVariant s k) (withVariant t l) := by
  simp only [Machine.withVariant, ← h.var]
  cases s.var with
  | sel v => exact hk v
  | none => rfl

/-- Outcomes that agree still do after one more operation that keeps agreement. -/
theorem SameOutcome.bind {x y : Except Fault State} {f : State → Except Fault State}
    (hxy : SameOutcome (outcomeOf x) (outcomeOf y))
    (hf : ∀ u w, x = .ok u → State.SameValues u w →
      SameOutcome (outcomeOf (f u)) (outcomeOf (f w))) :
    SameOutcome (outcomeOf (x.bind f)) (outcomeOf (y.bind f)) := by
  cases x with
  | ok u =>
    cases y with
    | ok w => exact hf u w rfl hxy
    | error e => exact hxy.elim
  | error e =>
    cases y with
    | ok w => exact hxy.elim
    | error e' => exact hxy

theorem SameOutcome.processBlock (h : State.SameValues s t) (hphase : s.phase ≠ .idle)
    (v : Variant) :
    SameOutcome (outcomeOf (processBlock v s)) (outcomeOf (processBlock v t)) := by
  cases hs : Memory.readRange s.buf 0 (blockBytes v) with
  | error i =>
    have ht : Memory.readRange t.buf 0 (blockBytes v) = .error i := h.buf ▸ hs
    rw [processBlock_of_error hs, processBlock_of_error ht]
    rfl
  | ok block =>
    have ht : Memory.readRange t.buf 0 (blockBytes v) = .ok block := h.buf ▸ hs
    obtain ⟨_, _, hs⟩ := processBlock_of_block hs
    obtain ⟨_, _, ht⟩ := processBlock_of_block ht
    rw [hs, ht, h.hash hphase]
    exact { h with hash := fun _ => rfl }

theorem SameOutcome.sealMessage (h : State.SameValues s t) (hphase : s.phase ≠ .idle)
    (v : Variant) :
    SameOutcome (outcomeOf (sealMessage v s)) (outcomeOf (sealMessage v t)) := by
  rw [sealMessage_eq_bind, sealMessage_eq_bind, ← h.buf, ← h.len hphase]
  refine .bind (.processBlock (h.setBuf _) (by exact hphase) v) fun u w hu huw => ?_
  obtain ⟨_, _, _, rfl⟩ := processBlock_ok hu
  rw [← huw.hash hphase]
  exact huw.storeDigest hphase _

theorem SameOutcome.padTwoBlocks (h : State.SameValues s t) (hphase : s.phase ≠ .idle)
    (v : Variant) (f : Nat) :
    SameOutcome (outcomeOf (padTwoBlocks v f s)) (outcomeOf (padTwoBlocks v f t)) := by
  rw [padTwoBlocks_eq_bind, padTwoBlocks_eq_bind, ← h.buf]
  refine .bind (.processBlock (h.setBuf _) (by exact hphase) v) fun u w hu huw => ?_
  obtain ⟨_, _, _, rfl⟩ := processBlock_ok hu
  rw [← huw.buf]
  exact .sealMessage (huw.setBuf _) (by exact hphase) v

theorem SameOutcome.padOneBlock (h : State.SameValues s t) (hphase : s.phase ≠ .idle)
    (v : Variant) (f : Nat) :
    SameOutcome (outcomeOf (padOneBlock v f s)) (outcomeOf (padOneBlock v f t)) := by
  rw [Machine.padOneBlock, Machine.padOneBlock, ← h.buf]
  exact .sealMessage (h.setBuf _) (by exact hphase) v

/-! ### The commands and the step -/

theorem SameOutcome.exec_startOf (h : State.SameValues s t) (v : Variant) :
    SameOutcome (exec (startOf v) s) (exec (startOf v) t) := by
  cases v <;> exact .unlessLocked h (h.openSession _)

theorem SameOutcome.exec_absorb (h : State.SameValues s t) (b : Byte) :
    SameOutcome (exec (.absorb b) s) (exec (.absorb b) t) := by
  refine .unlessLocked h ?_
  simp only [performAbsorb, ← h.phase]
  split
  · rename_i hphase
    have hidle : s.phase ≠ .idle := by simp [hphase]
    refine .withVariant h fun v => ?_
    simp only [absorbByte, ← h.len hidle]
    split
    · exact .processBlock (h.storeByte _ b) hidle v
    · exact h.storeByte _ b
  · exact h.recordError _

theorem SameOutcome.exec_finish (h : State.SameValues s t) :
    SameOutcome (exec .finish s) (exec .finish t) := by
  refine .unlessLocked h ?_
  simp only [performFinish, ← h.phase]
  split
  · rename_i hphase
    have hidle : s.phase ≠ .idle := by simp [hphase]
    refine .withVariant h fun v => ?_
    simp only [finishMessage, ← h.len hidle]
    split
    · exact .padTwoBlocks h hidle v _
    · exact .padOneBlock h hidle v _
  · exact h.recordError _

theorem SameOutcome.exec_read (h : State.SameValues s t) (k : BitVec 6) :
    SameOutcome (exec (.read k) s) (exec (.read k) t) := by
  refine .unlessLocked h ?_
  simp only [performRead, ← h.phase]
  split
  · refine .withVariant h fun v => ?_
    simp only [readDigest, ← h.digest]
    split
    · exact h.recordError _
    · split
      · exact h.respond _
      · rfl
  · exact h.recordError _

/-- Every command takes states that agree to outcomes that agree. -/
theorem SameOutcome.exec (h : State.SameValues s t) (i : Instr) :
    SameOutcome (exec i s) (exec i t) := by
  cases i with
  | reset => exact h.resetCore
  | startSha256 => exact .exec_startOf h .sha256
  | startSha384 => exact .exec_startOf h .sha384
  | startSha512 => exact .exec_startOf h .sha512
  | absorb b => exact .exec_absorb h b
  | finish => exact .exec_finish h
  | read k => exact .exec_read h k
  | status =>
    rw [exec_status, exec_status, ← h.statusByte_eq]
    exact h.respond _

/-- Settles O37: the port and the control registers agree, so both states take the same
transaction; each command is then by the operations it is made of. -/
theorem noStepReadsAValuelessRegister : Obligations.NoStepReadsAValuelessRegister := by
  unfold Obligations.NoStepReadsAValuelessRegister
  intro s t h
  cases hs : s.port with
  | nil =>
    rw [step_of_nil hs, step_of_nil (h.port ▸ hs)]
    exact h
  | cons x rest =>
    have ht : t.port = x :: rest := h.port ▸ hs
    have hrest := h.with_port rest
    cases x with
    | rst =>
      rw [step_of_rst hs, step_of_rst ht]
      exact hrest.resetCore
    | word w =>
      cases hdec : decode w with
      | ok i =>
        rw [step_of_decode hs hdec, step_of_decode ht hdec]
        exact .exec hrest i
      | error c =>
        rw [step_of_decode_error hs hdec, step_of_decode_error ht hdec]
        exact .unlessLocked hrest (hrest.recordError c)

end Sys2Proof.Machine
end

section
/-!
THEOREMS. What absorbing a message leaves (R26, R38 (4) of spec/10_state.md, R106): `fill` as the
place in the block, how one more byte changes the complete blocks and the bytes left over, and the
invariant `Absorbed` of a session in progress, by induction over the message.
-/

namespace Sys2Proof.Machine

/-! ### fill -/

theorem fill_ofNat (v : Variant) (n : Nat) :
    fill v (BitVec.ofNat 128 (8 * n)) = n % blockBytes v := by
  rcases blockBytes_cases v with ⟨hb, -⟩ | ⟨hb, -⟩ <;>
    · rw [fill_eq, hb, BitVec.toNat_ofNat]
      omega

/-- Settles O39: both bit fields and the value for `n` bytes are LEN divided by 8, modulo B. -/
theorem fillIsThePlaceInTheBlock : Obligations.FillIsThePlaceInTheBlock := by
  unfold Obligations.FillIsThePlaceInTheBlock
  have hbits (len : BitVec 128) (n : Nat) :
      (len.extractLsb' 3 n).toNat = len.toNat / 8 % 2 ^ n := by
    rw [BitVec.extractLsb'_toNat, Nat.shiftRight_eq_div_pow]
  refine ⟨fun len => ?_, fun len => ?_, fun len => ?_, fill_lt, fill_ofNat⟩ <;>
    · rw [fill_eq, hbits]
      rfl

/-! ### One more byte -/

theorem lastBytes_length (v : Variant) (m : List Byte) :
    (lastBytes v m).length = m.length % blockBytes v := by
  rw [lastBytes, List.length_drop, Nat.mod_eq_sub_div_mul]

/-- The blocks complete before one more byte are blocks of the longer message too. -/
theorem map_blocks_append (v : Variant) (m : List Byte) (b : Byte) :
    (List.range (m.length / blockBytes v)).map (fun k =>
      ((m ++ [b]).drop (k * blockBytes v)).take (blockBytes v)) = completeBlocks v m := by
  refine List.map_congr_left fun k hk => ?_
  have hend : k * blockBytes v + blockBytes v ≤ m.length := by
    rw [← Nat.succ_mul]
    exact (Nat.mul_le_mul_right _ (List.mem_range.1 hk)).trans (Nat.div_mul_le_self _ _)
  rw [List.drop_append_of_le_length (by omega),
    List.take_append_of_le_length (by rw [List.length_drop]; omega)]

theorem drop_append_singleton_eq (v : Variant) (m : List Byte) (b : Byte) :
    (m ++ [b]).drop (m.length / blockBytes v * blockBytes v) = lastBytes v m ++ [b] :=
  List.drop_append_of_le_length (Nat.div_mul_le_self _ _)

section
variable {v : Variant} {m : List Byte} (b : Byte)
  (h : m.length % blockBytes v + 1 < blockBytes v)
include h

theorem succ_div_of_incomplete : (m.length + 1) / blockBytes v = m.length / blockBytes v := by
  rcases blockBytes_cases v with ⟨hb, -⟩ | ⟨hb, -⟩ <;> rw [hb] at h ⊢ <;> omega

theorem completeBlocks_append_of_incomplete :
    completeBlocks v (m ++ [b]) = completeBlocks v m := by
  rw [completeBlocks, List.length_append, List.length_singleton, succ_div_of_incomplete h,
    map_blocks_append]

theorem lastBytes_append_of_incomplete : lastBytes v (m ++ [b]) = lastBytes v m ++ [b] := by
  rw [lastBytes, List.length_append, List.length_singleton, succ_div_of_incomplete h,
    drop_append_singleton_eq]
end

section
variable {v : Variant} {m : List Byte} (b : Byte)
  (h : m.length % blockBytes v + 1 = blockBytes v)
include h

theorem succ_div_of_complete : (m.length + 1) / blockBytes v = m.length / blockBytes v + 1 := by
  rcases blockBytes_cases v with ⟨hb, -⟩ | ⟨hb, -⟩ <;> rw [hb] at h ⊢ <;> omega

theorem completeBlocks_append_of_complete :
    completeBlocks v (m ++ [b]) = completeBlocks v m ++ [lastBytes v m ++ [b]] := by
  have hlast : (lastBytes v m ++ [b]).length ≤ blockBytes v := by
    rw [List.length_append, lastBytes_length, List.length_singleton, h]
  rw [completeBlocks, List.length_append, List.length_singleton, succ_div_of_complete h,
    List.range_succ, List.map_append, map_blocks_append, List.map_singleton,
    drop_append_singleton_eq, List.take_of_length_le hlast]

theorem lastBytes_append_of_complete : lastBytes v (m ++ [b]) = [] := by
  rw [← List.length_eq_zero_iff, lastBytes_length, List.length_append, List.length_singleton,
    ← Nat.mod_add_mod, h, Nat.mod_self]
end

/-! ### The session in progress -/

/-- The state of a session of `v` in which the bytes `m` have been absorbed (R38 (4)). -/
structure Absorbed (v : Variant) (m : List Byte) (s : State) : Prop where
  phase : s.phase = .absorbing
  var : s.var = .sel v
  err : s.err = false
  len : s.len = BitVec.ofNat 128 (8 * m.length)
  buf : ∀ i, i < (lastBytes v m).length → Memory.read s.buf i = (lastBytes v m)[i]?
  hash : s.hash = (completeBlocks v m).foldl (compressBlock v) (initialHash v)

variable {v : Variant} {m : List Byte} {s : State}

theorem absorbed_openSession (v : Variant) (herr : s.err = false) :
    Absorbed v [] (openSession v s) := by
  constructor <;> simp [herr, lastBytes, completeBlocks]

theorem Absorbed.with_port (h : Absorbed v m s) (p : List PortInput) :
    Absorbed v m { s with port := p } := { h with }

theorem Absorbed.fill_eq_length (h : Absorbed v m s) :
    fill v s.len = (lastBytes v m).length := by
  rw [h.len, fill_ofNat, lastBytes_length]

/-- The byte written at `fill` follows the bytes left over. -/
theorem Absorbed.read_write (h : Absorbed v m s) (b : Byte) {i : Nat}
    (hi : i < (lastBytes v m ++ [b]).length) :
    Memory.read (Memory.write s.buf (fill v s.len) b) i = (lastBytes v m ++ [b])[i]? := by
  rw [List.length_append, List.length_singleton] at hi
  rw [Memory.read_write, h.fill_eq_length]
  split
  · rename_i heq
    simp [heq]
  · rw [h.buf i (by omega), List.getElem?_append_left (by omega)]

theorem len_add_eight (n : Nat) :
    BitVec.ofNat 128 (8 * n) + 8#128 = BitVec.ofNat 128 (8 * (n + 1)) := by
  rw [← BitVec.ofNat_add, Nat.mul_succ]

/-- ABSORB with `ERR = 0` in an open session is the Padder's append (R106). -/
theorem exec_absorb_of_open (b : Byte) (hphase : s.phase = .absorbing) (hvar : s.var = .sel v)
    (herr : s.err = false) : exec (.absorb b) s = absorbByte b s v := by
  show unlessLocked (performAbsorb b) s = _
  rw [unlessLocked_open herr, performAbsorb, if_pos hphase, withVariant_sel hvar]

/-- ABSORB adds its byte to the message absorbed and gives no response. -/
theorem Absorbed.exec_absorb (h : Absorbed v m s) (b : Byte) :
    ∃ t, exec (.absorb b) s = .next t ∧ Absorbed v (m ++ [b]) t ∧ t.port = s.port ∧
      t.out = s.out := by
  have hfill : fill v s.len = m.length % blockBytes v := by rw [h.len, fill_ofNat]
  have hlen : s.len + 8#128 = BitVec.ofNat 128 (8 * (m ++ [b]).length) := by
    rw [h.len, len_add_eight, List.length_append, List.length_singleton]
  rw [exec_absorb_of_open b h.phase h.var h.err, absorbByte]
  split
  · rename_i hfull
    have hlt := fill_lt v s.len
    have hcomplete : m.length % blockBytes v + 1 = blockBytes v := by omega
    have hblock : Memory.readRange (Memory.write s.buf (fill v s.len) b) 0 (blockBytes v) =
        .ok (lastBytes v m ++ [b]) := by
      have hn : (lastBytes v m ++ [b]).length = blockBytes v := by
        rw [List.length_append, lastBytes_length, List.length_singleton, hcomplete]
      refine (Memory.readRange_ok_iff _ _ _ _).2 ⟨hn, fun i hi => ?_⟩
      rw [Nat.zero_add, h.read_write b (by omega)]
    obtain ⟨ws, r, hp⟩ := processBlock_of_block (s := storeByte (fill v s.len) b s) hblock
    rw [hp, outcomeOf_ok]
    refine ⟨_, rfl, ⟨h.phase, h.var, h.err, hlen, ?_, ?_⟩, rfl, rfl⟩
    · simp [lastBytes_append_of_complete b hcomplete]
    · simp [completeBlocks_append_of_complete b hcomplete, h.hash]
  · rename_i hfull
    have hlt := fill_lt v s.len
    have hincomplete : m.length % blockBytes v + 1 < blockBytes v := by omega
    refine ⟨_, rfl, ⟨h.phase, h.var, h.err, hlen, ?_, ?_⟩, rfl, rfl⟩
    · rw [lastBytes_append_of_incomplete b hincomplete]
      exact fun i hi => h.read_write b hi
    · rw [completeBlocks_append_of_incomplete b hincomplete]
      exact h.hash

/-! ### Runs -/

theorem runSteps_succ {n : Nat} {t : State} (h : step s = .next t) :
    runSteps (n + 1) s = runSteps n t := by
  show core.run (n + 1) s = core.run n t
  simp only [Host.Core.run, show core.step s = .next t from h]

/-- The words of a message, one after the other, are absorbed; what waits behind them still does. -/
theorem Absorbed.runSteps (h : Absorbed v m s) (rest : List Byte) {p : List PortInput}
    (hport : s.port = wordsOf (absorbs rest) ++ p) :
    ∃ t, runSteps rest.length s = .next t ∧ Absorbed v (m ++ rest) t ∧ t.port = p ∧
      t.out = s.out := by
  induction rest generalizing m s with
  | nil => exact ⟨s, rfl, by simpa using h, hport, rfl⟩
  | cons b rest ih =>
    obtain ⟨t, hexec, ht, htport, htout⟩ :=
      (h.with_port (wordsOf (absorbs rest) ++ p)).exec_absorb b
    obtain ⟨u, hrun, hu, huport, huout⟩ := ih ht htport
    have hstep : step s = .next t := (step_of_decode hport (decode_encode_absorb b)).trans hexec
    exact ⟨u, by rw [List.length_cons, runSteps_succ hstep, hrun], by simpa using hu, huport,
      huout.trans htout⟩

/-- START with `ERR = 0` opens a session (R166). -/
theorem exec_startOf_of_open (v : Variant) (herr : s.err = false) :
    exec (startOf v) s = .next (openSession v s) := by
  cases v <;> exact unlessLocked_open herr

/-- START and a message, from any state with `ERR = 0`; what waits behind them still does. -/
theorem runSteps_start_absorbs (v : Variant) (m : List Byte) {p : List PortInput}
    (herr : s.err = false) (hport : s.port = wordsOf (startOf v :: absorbs m) ++ p) :
    ∃ t, runSteps (m.length + 1) s = .next t ∧ Absorbed v m t ∧ t.port = p ∧ t.out = s.out := by
  have hstep : step s = .next (openSession v { s with port := wordsOf (absorbs m) ++ p }) :=
    (step_of_decode hport (decode_encode_startOf v)).trans (exec_startOf_of_open v herr)
  rw [runSteps_succ hstep]
  simpa using (absorbed_openSession v (by exact herr)).runSteps m rfl

/-- Settles O54: START makes the session with no byte absorbed, and each ABSORB adds its byte. -/
theorem absorbedBytesStandInLenBufAndHash : Obligations.AbsorbedBytesStandInLenBufAndHash := by
  unfold Obligations.AbsorbedBytesStandInLenBufAndHash
  intro v m s herr
  obtain ⟨t, hrun, ht, hport, hout⟩ := runSteps_start_absorbs v m (p := [])
    (s := { s with port := wordsOf (startOf v :: absorbs m) }) herr (by simp)
  exact ⟨t, hrun, ht.phase, ht.var, ht.err, hport, hout, ht.len, ht.fill_eq_length, ht.buf,
    ht.hash⟩

end Sys2Proof.Machine
end

section
/-!
THEOREMS. Who writes PHASE, VAR and LEN (R21, R22, R25 of spec/10_state.md), and what each command
leaves unchanged (R37, R27): each from the effects a command can have.
-/

namespace Sys2Proof.Machine

/-! ### Who writes the control registers and LEN -/

/-- Settles O23: among the effects only reset, START and an accepted FINISH write PHASE. -/
theorem phaseMovesOnlyAsListed : Obligations.PhaseMovesOnlyAsListed := by
  unfold Obligations.PhaseMovesOnlyAsListed
  intro s t hstep
  rcases step_effect hstep with rfl | ⟨rest, hport, rfl⟩ | ⟨i, rest, hport, he⟩ |
    ⟨_, rest, -, -, rfl⟩ | ⟨_, rest, c, -, -, -, rfl⟩
  · exact .inl rfl
  · exact .inr (.inl ⟨rest, .inl hport, rfl⟩)
  · cases he with
    | dropped | outOfPhase | beyondDigest | status | digestByte | stored | completed =>
      exact .inl rfl
    | reset hi => exact .inr (.inl ⟨rest, .inr (by rw [hport, hi]; rfl), rfl⟩)
    | opened v hi herr => exact .inr (.inr (.inl ⟨v, rest, herr, hi ▸ hport, rfl⟩))
    | finished v ws r x hi herr hphase =>
      exact .inr (.inr (.inr ⟨rest, herr, hphase, by rw [hport, hi]; rfl, rfl⟩))
  · exact .inl rfl
  · exact .inl rfl

/-- Settles O24: among the effects only reset and START write VAR. -/
theorem varMovesOnlyAtStartAndReset : Obligations.VarMovesOnlyAtStartAndReset := by
  unfold Obligations.VarMovesOnlyAtStartAndReset
  intro s t hstep
  rcases step_effect hstep with rfl | ⟨rest, hport, rfl⟩ | ⟨i, rest, hport, he⟩ |
    ⟨_, rest, -, -, rfl⟩ | ⟨_, rest, c, -, -, -, rfl⟩
  · exact .inl rfl
  · exact .inr (.inl ⟨rest, .inl hport, rfl⟩)
  · cases he with
    | dropped | outOfPhase | beyondDigest | status | digestByte | stored | completed | finished =>
      exact .inl rfl
    | reset hi => exact .inr (.inl ⟨rest, .inr (by rw [hport, hi]; rfl), rfl⟩)
    | opened v hi herr => exact .inr (.inr ⟨v, rest, herr, hi ▸ hport, rfl⟩)
  · exact .inl rfl
  · exact .inl rfl

/-- Settles O25: START writes 0, both forms of ABSORB add 8, and reset is set aside. -/
theorem lenIsWrittenByStartAndAbsorb : Obligations.LenIsWrittenByStartAndAbsorb := by
  unfold Obligations.LenIsWrittenByStartAndAbsorb
  intro i s t hexec hreset
  cases exec_effect hexec with
  | dropped | outOfPhase | beyondDigest | status | digestByte | finished => exact .inl rfl
  | reset hi => exact absurd hi hreset
  | opened v hi herr => exact .inr (.inl ⟨⟨v, hi⟩, herr, rfl⟩)
  | stored v b hi herr hphase =>
    exact .inr (.inr ⟨⟨b, hi⟩, herr, hphase, BitVec.toNat_add _ _⟩)
  | completed v b ws r x hi herr hphase =>
    exact .inr (.inr ⟨⟨b, hi⟩, herr, hphase, BitVec.toNat_add _ _⟩)

/-! ### Frames -/

theorem blockBytes_of_sha256 : blockBytes .sha256 = 64 := rfl

/-- Settles O31: ABSORB writes at `fill`, below 64, and FINISH below 64. -/
theorem shortTrackKeepsTheUpperHalfOfBuf : Obligations.ShortTrackKeepsTheUpperHalfOfBuf := by
  unfold Obligations.ShortTrackKeepsTheUpperHalfOfBuf
  intro i s t hexec hreset hvar a ha
  have hstore (v : Variant) (b : Byte) (hv : s.var = .sel v) :
      Memory.read (Memory.write s.buf (fill v s.len) b) a = Memory.read s.buf a := by
    obtain rfl : Variant.sha256 = v := by simpa [hvar] using hv
    have := fill_lt .sha256 s.len
    rw [blockBytes_of_sha256] at this
    exact Memory.read_write_other _ _ (by omega)
  cases exec_effect hexec with
  | dropped | outOfPhase | beyondDigest | status | digestByte | opened => rfl
  | reset hi => exact absurd hi hreset
  | stored v b _ _ _ hv => exact hstore v b hv
  | completed v b _ _ _ _ _ _ hv => exact hstore v b hv
  | finished v _ _ _ _ _ _ hv =>
    obtain rfl : Variant.sha256 = v := by simpa [hvar] using hv
    exact read_finishBuf_of_blockBytes_le s ha

/-- Settles O27: READ is dropped, refused or answered; STATUS is answered. -/
theorem readAndStatusFrame : Obligations.ReadAndStatusFrame := by
  unfold Obligations.ReadAndStatusFrame
  refine ⟨fun s t hexec => ?_, fun k s t hexec => ?_⟩
  · cases hexec
    rfl
  · rcases exec_read_next hexec with ⟨-, rfl⟩ | ⟨-, -, rfl⟩ | ⟨-, -, -, -, -, rfl⟩ |
      ⟨-, -, -, -, -, -, -, rfl⟩
    · exact ⟨.inl rfl, fun _ => rfl, fun _ => rfl⟩
    · exact ⟨.inr rfl, fun _ => rfl, fun _ => rfl⟩
    · exact ⟨.inr rfl, fun _ => rfl, fun _ => rfl⟩
    · exact ⟨.inl rfl, fun _ => rfl, fun _ => rfl⟩

/-- Settles O28: each START is the START of its variant, dropped or accepted. -/
theorem startFrame : Obligations.StartFrame := by
  unfold Obligations.StartFrame
  intro i s t hi hexec
  obtain ⟨v, rfl⟩ : ∃ v, i = startOf v := by
    simp only [List.mem_cons, List.not_mem_nil, or_false] at hi
    rcases hi with rfl | rfl | rfl
    exacts [⟨.sha256, rfl⟩, ⟨.sha384, rfl⟩, ⟨.sha512, rfl⟩]
  rcases exec_start_cases hexec with ⟨-, ht⟩ | ⟨herr, ht⟩ <;> cases ht
  · simp
  · simp [herr]

/-- Settles O29: ABSORB is dropped or refused, or it stores a byte, which may complete the block. -/
theorem absorbFrame : Obligations.AbsorbFrame := by
  unfold Obligations.AbsorbFrame
  intro b s t hexec
  have hstore {v : Variant} (hvar : s.var = .sel v) (u : Variant) (hu : s.var = .sel u) (a : Nat)
      (ha : a ≠ fill u s.len) :
      Memory.read (Memory.write s.buf (fill v s.len) b) a = Memory.read s.buf a := by
    obtain rfl : v = u := by simpa [hvar] using hu
    exact Memory.read_write_other _ _ ha
  rcases exec_absorb_next hexec with ⟨-, rfl⟩ | ⟨herr, -, rfl⟩ | ⟨v, herr, -, hvar, -, rfl⟩ |
    ⟨v, ws, r, x, herr, -, hvar, hfill, rfl⟩
  · simp
  · simp [herr, recordError]
  · refine ⟨rfl, rfl, rfl, rfl, rfl, fun _ => rfl, hstore hvar, fun _ _ _ => ⟨rfl, rfl, rfl⟩,
      .inl ⟨rfl, rfl⟩, by simp [herr]⟩
  · refine ⟨rfl, rfl, rfl, rfl, rfl, fun _ => rfl, hstore hvar, fun u hu hne => ?_,
      .inl ⟨rfl, rfl⟩, by simp [herr]⟩
    obtain rfl : v = u := by simpa [hvar] using hu
    exact absurd hfill hne

/-- Settles O30: FINISH is dropped or refused, or it leaves `finishBuf` in BUF and a digest of `DL`
bytes. -/
theorem finishFrame : Obligations.FinishFrame := by
  unfold Obligations.FinishFrame
  intro s t hexec
  rcases exec_finish_next hexec with ⟨-, rfl⟩ | ⟨herr, hphase, rfl⟩ |
    ⟨v, ws, r, x, herr, -, hvar, rfl⟩
  · refine ⟨rfl, rfl, rfl, rfl, rfl, by simp, by simp, fun _ _ hdone habs => ?_, .inl ⟨rfl, rfl⟩,
      by simp⟩
    exact absurd (hdone.symm.trans habs) (by decide)
  · refine ⟨rfl, rfl, rfl, rfl, rfl, by simp, by simp, fun _ _ _ habs => absurd habs hphase,
      .inr rfl, by simp [herr]⟩
  · refine ⟨rfl, rfl, rfl, rfl, rfl, fun u hu a ha => ?_, fun u hu hfit a ha => ?_,
      fun u hu _ _ a ha => ?_, .inl ⟨rfl, rfl⟩, by simp [herr]⟩ <;>
      obtain rfl : v = u := by simpa [hvar] using hu
    · exact read_finishBuf_of_blockBytes_le s ha
    · exact read_finishBuf_of_lt_fill hfit ha
    · show Memory.read (Memory.writeBytes [] 0 (formatDigest v x)) a = none
      rw [Memory.read_writeBytes_nil, List.getElem?_eq_none (by rwa [formatDigest_length])]

end Sys2Proof.Machine
end

section
/-!
THEOREMS. The schedule registers after a block (R30 of spec/10_state.md, R130), the STATUS values a
host can see (R24), and the listed values of the control registers (R21, R22, R36).
-/

namespace Sys2Proof.Machine

/-! ### W after a block -/

theorem loadSchedule_getElem?_outside (old : Vector Word64 80) {k i : Nat} (ws : List Word64)
    (h : i < k ∨ k + ws.length ≤ i) : (loadSchedule old k ws)[i]? = old[i]? := by
  induction ws generalizing old k with
  | nil => rfl
  | cons x xs ih =>
    rw [List.length_cons] at h
    rw [loadSchedule, ih _ (by omega), Vector.getElem?_setIfInBounds_ne (by omega)]

theorem loadSchedule_getElem?_inside (old : Vector Word64 80) {k i : Nat} (ws : List Word64)
    (hi : i < 80) (hk : k ≤ i) (hend : i < k + ws.length) :
    (loadSchedule old k ws)[i]? = ws[i - k]? := by
  induction ws generalizing old k with
  | nil => rw [List.length_nil] at hend; omega
  | cons x xs ih =>
    rw [List.length_cons] at hend
    rw [loadSchedule]
    rcases hk.eq_or_lt with rfl | hlt
    · rw [loadSchedule_getElem?_outside _ _ (by omega), Nat.sub_self]
      simp [hi]
    · rw [ih _ hlt (by omega), show i - k = (i - (k + 1)) + 1 by omega,
        List.getElem?_cons_succ]

theorem expandBy_length {w : Nat} (p : TrackParams w) (n : Nat) (ws : List (BitVec w)) :
    (expandBy p n ws).length = ws.length + n := by
  induction n generalizing ws with
  | zero => rfl
  | succ n ih =>
    rw [expandBy, ih, expandStep, List.length_append, List.length_singleton]
    omega

theorem decodeBlock_length (w : Nat) (block : List Byte) : (decodeBlock w block).length = 16 := by
  simp [decodeBlock]

theorem expand_shortTrack_length (block : List Byte) :
    (expand shortTrack (decodeBlock 32 block)).length = 64 := by
  rw [expand, expandBy_length, decodeBlock_length]
  rfl

theorem expand_longTrack_length (block : List Byte) :
    (expand longTrack (decodeBlock 64 block)).length = 80 := by
  rw [expand, expandBy_length, decodeBlock_length]
  rfl

theorem processOn_schedule {w : Nat} {p : TrackParams w} {s t : State} {block : List Byte}
    (h : processOn p s = .ok t) (hblock : Memory.readRange s.buf 0 p.blockBytes = .ok block) :
    t.schedule = loadSchedule s.schedule 0
      ((expand p (decodeBlock w block)).map (·.setWidth 64)) := by
  rw [processOn_of_block hblock] at h
  cases h
  rfl

/-- Settles O32: a block's expansion is loaded from W[0] up, 64 words on the short track and 80 on
the long. -/
theorem processedBlockFillsTheSchedule : Obligations.ProcessedBlockFillsTheSchedule := by
  unfold Obligations.ProcessedBlockFillsTheSchedule
  intro s t v block h hblock
  refine ⟨fun htrack => ?_, fun htrack i hi => ?_⟩
  · simp only [processBlock, blockBytes, htrack] at h hblock
    have hlen := expand_shortTrack_length block
    rw [processOn_schedule h hblock]
    refine ⟨fun i hi => ?_, fun i hi => ?_⟩
    · rw [loadSchedule_getElem?_inside _ _ (by omega) (by omega) (by simp [hlen, hi]),
        List.getElem?_map, Nat.sub_zero]
    · rw [loadSchedule_getElem?_outside _ _ (by simp [hlen, hi])]
  · simp only [processBlock, blockBytes, htrack] at h hblock
    have hlen := expand_longTrack_length block
    rw [processOn_schedule h hblock,
      loadSchedule_getElem?_inside _ _ hi (by omega) (by simp [hlen, hi])]
    simp

/-! ### The STATUS values -/

/-- The VAR and PHASE fields of STATUS (R24). -/
def controlBits (v : VarReg) (p : Phase) : Byte :=
  ((varCode v).setWidth 8 <<< 2) ||| (phaseCode p).setWidth 8

/-- The ERRCODE and ERR fields of STATUS (R24). -/
def errorBits (e : Bool) (c : BitVec 3) : Byte :=
  (c.setWidth 8 <<< 5) ||| ((errBit e).setWidth 8 <<< 4)

/-- The fields of STATUS do not overlap, so they add up. -/
theorem statusByte_eq_add (s : State) :
    statusByte s = controlBits s.var s.phase + errorBits s.err s.errCode := by
  have hfields : ∀ (c : BitVec 3) (e : BitVec 1) (v p : BitVec 2),
      (c.setWidth 8 <<< 5) ||| (e.setWidth 8 <<< 4) ||| (v.setWidth 8 <<< 2) ||| p.setWidth 8 =
        ((v.setWidth 8 <<< 2) ||| p.setWidth 8)
          + ((c.setWidth 8 <<< 5) ||| (e.setWidth 8 <<< 4) : BitVec 8) := by decide
  exact hfields _ _ _ _

theorem controlBits_mem {v : VarReg} {p : Phase} (h : p = .idle ↔ v = .none) :
    controlBits v p ∈ [0x0C#8, 0x01#8, 0x05#8, 0x09#8, 0x02#8, 0x06#8, 0x0A#8] := by
  cases v with
  | none =>
    obtain rfl := h.2 rfl
    decide
  | sel v =>
    cases p with
    | idle => cases h.1 rfl
    | absorbing => cases v <;> decide
    | done => cases v <;> decide

theorem controlBits_done_mem {v : VarReg} (h : v ≠ .none) :
    controlBits v .done ∈ [0x02#8, 0x06#8, 0x0A#8] := by
  cases v with
  | none => exact absurd rfl h
  | sel v => cases v <;> decide

/-- Settles O22: VAR and PHASE give one of the seven values, and ERR adds what its code says; code 5
is of DONE only. -/
theorem statusValuesTheHostCanSee : Obligations.StatusValuesTheHostCanSee := by
  unfold Obligations.StatusValuesTheHostCanSee
  intro s h
  have hcontrol := controlBits_mem h.idle_iff
  rw [statusByte_eq_add]
  cases herr : s.err with
  | false =>
    rw [h.err_iff.1 herr, show errorBits false 0#3 = 0#8 by decide, BitVec.add_zero]
    exact .inl hcontrol
  | true =>
    have hcode : s.errCode ∈ [1#3, 2#3, 3#3, 4#3] ∨ s.errCode = 5#3 := by
      have hne : s.errCode ≠ 0#3 := fun h0 => by simp [h.err_iff.2 h0] at herr
      have hcodes : ∀ c : BitVec 3, c ≠ 0#3 → c.toNat ≤ 5 → c ∈ [1#3, 2#3, 3#3, 4#3] ∨ c = 5#3 := by
        decide
      exact hcodes _ hne h.code_le
    rcases hcode with hcode | hcode
    · have hbits : ∀ c ∈ [1#3, 2#3, 3#3, 4#3],
          errorBits true c ∈ [0x30#8, 0x50#8, 0x70#8, 0x90#8] := by decide
      exact .inr (.inl ⟨_, hcontrol, _, hbits _ hcode, rfl⟩)
    · have hdone := h.badIndex_done hcode
      have hvar : s.var ≠ .none := fun hnone => by simp [h.idle_iff.2 hnone] at hdone
      rw [hdone, hcode]
      exact .inr (.inr ⟨_, controlBits_done_mem hvar, rfl⟩)

/-! ### The listed values -/

/-- Settles O15: each value as State.reset is written, the STATUS view by evaluation. -/
theorem resetStateHoldsTheListedValues : Obligations.ResetStateHoldsTheListedValues := by
  unfold Obligations.ResetStateHoldsTheListedValues
  exact ⟨rfl, rfl, rfl, rfl, by decide, fun _ => rfl, fun _ => rfl⟩

/-- Settles O21: the codes as the tables of PHASE and VAR give them; none of PHASE is 3. -/
theorem controlRegisterCodes : Obligations.ControlRegisterCodes := by
  unfold Obligations.ControlRegisterCodes
  refine ⟨rfl, rfl, rfl, fun p => ?_, rfl, rfl, rfl, rfl⟩
  cases p <;> decide

end Sys2Proof.Machine
end

section
/-!
THEOREMS. The port (R59): no command writes it, so a step leaves what its fetch left.
-/

namespace Sys2Proof.Machine

variable {s t : State}

/-- No effect of a command writes the port, RESET included (R59). -/
theorem Effect.port_eq {i : Instr} (he : Effect i s t) : t.port = s.port := by
  cases he with
  | dropped | finished => rfl
  | outOfPhase | beyondDigest => exact recordError_port s _
  | reset => exact resetCore_port s
  | status | digestByte => exact respond_port s _
  | opened v => exact openSession_port s v
  | stored v b | completed v b => exact storeByte_port s (fill v s.len) b

/-- A word that is no command is dropped or refused, and neither writes the port. -/
theorem execIllegal_port_eq {c : ProtocolError} (h : execIllegal c s = .next t) :
    t.port = s.port := by
  rcases execIllegal_cases h with ⟨-, ht⟩ | ⟨-, ht⟩ <;> cases ht
  · rfl
  · exact recordError_port s c

/-- Settles O8: an empty port is its own tail; otherwise the fetch takes the head, and neither `rst`
nor the word's execution writes the port. -/
theorem stepTakesOneTransaction : Obligations.StepTakesOneTransaction := by
  unfold Obligations.StepTakesOneTransaction
  intro s t hstep
  rcases step_cases hstep with ⟨hport, ht⟩ | ⟨rest, hport, ht⟩ | ⟨w, rest, i, hport, -, hexec⟩ |
    ⟨w, rest, c, hport, -, hexec⟩
  · cases ht; rw [hport, List.tail_nil]
  · cases ht; rw [hport, resetCore_port, List.tail_cons]
  · rw [hport, (exec_effect hexec).port_eq, List.tail_cons]
  · rw [hport, execIllegal_port_eq hexec, List.tail_cons]

end Sys2Proof.Machine
end

section
/-!
THEOREMS. The encoding (R70 to R74, R84, R85 of spec/30_encoding.md): Decode inverts the encoder,
Decode read by division as R84 writes it, the rows of R85, and the well-formed words counted.
-/

namespace Sys2Proof

/-! ### Decode and the encoder -/

theorem decode_encode_read (i : BitVec 6) : decode (encode (.read i)) = .ok (.read i) := by
  obtain ⟨hop, hrz, harg⟩ := fields_encode_read i
  have hreserved : (i.setWidth 8).extractLsb' 6 2 = 0#2 := by
    revert i; decide
  have hindex : (i.setWidth 8).extractLsb' 0 6 = i := by
    revert i; decide
  simp [decode, decodeRead, hop, hrz, harg, hreserved, hindex]

/-- No operand bit is dropped by the encoder (R71, R72). -/
theorem decode_encode (i : Instr) : decode (encode i) = .ok i := by
  cases i with
  | absorb b => exact decode_encode_absorb b
  | read k => exact decode_encode_read k
  | reset | startSha256 | startSha384 | startSha512 | finish | status => rfl

theorem decode_eq_ok_iff {w : CmdWord} {i : Instr} : decode w = .ok i ↔ encode i = w :=
  ⟨encode_of_decode, fun h => h ▸ decode_encode i⟩

/-- Settles O2: `encode_of_decode` is one direction, `decode_encode` the other. -/
theorem decodeExactlyInvertsEncode : Obligations.DecodeExactlyInvertsEncode := by
  unfold Obligations.DecodeExactlyInvertsEncode
  exact fun w i => decode_eq_ok_iff

theorem encode_injective : Function.Injective encode := fun i j h =>
  Except.ok.inj ((decode_encode i).symm.trans (h ▸ decode_encode j))

/-- Decode is total: it refuses exactly the words that are no command (R84). -/
theorem exists_decode_error_iff {w : CmdWord} :
    (∃ c, decode w = .error c) ↔ ¬ ∃ i, decode w = .ok i := by
  cases decode w <;> simp

/-! ### Decode by value and remainder -/

theorem decodeNoOperand_eq (i : Instr) (arg : BitVec 8) : decodeNoOperand i arg =
    if arg.toNat ≠ 0 then .error .reservedNonzero else .ok i := by
  simp only [decodeNoOperand, ne_eq, BitVec.toNat_eq, BitVec.toNat_ofNat, Nat.zero_mod]

theorem decodeStart_eq (arg : BitVec 8) : decodeStart arg =
    if arg.toNat / 4 ≠ 0 then .error .reservedNonzero
    else if arg.toNat % 4 = 3 then .error .badVariant
    else if arg.toNat % 4 = 0 then .ok .startSha256
    else if arg.toNat % 4 = 1 then .ok .startSha384
    else .ok .startSha512 := by
  have hrest : (arg.extractLsb' 2 6).toNat = arg.toNat / 4 := by
    have := arg.isLt
    rw [BitVec.extractLsb'_toNat, Nat.shiftRight_eq_div_pow]
    omega
  have hvariant : (arg.extractLsb' 0 2).toNat = arg.toNat % 4 := by
    simp [BitVec.extractLsb'_toNat]
  simp [decodeStart, BitVec.toNat_eq, hrest, hvariant]

theorem decodeRead_eq (arg : BitVec 8) : decodeRead arg =
    if arg.toNat / 0x40 ≠ 0 then .error .reservedNonzero
    else .ok (.read (BitVec.ofNat 6 arg.toNat)) := by
  have hrest : (arg.extractLsb' 6 2).toNat = arg.toNat / 0x40 := by
    have := arg.isLt
    rw [BitVec.extractLsb'_toNat, Nat.shiftRight_eq_div_pow]
    omega
  have hindex : arg.extractLsb' 0 6 = BitVec.ofNat 6 arg.toNat :=
    BitVec.eq_of_toNat_eq (by simp [BitVec.extractLsb'_toNat])
  simp [decodeRead, BitVec.toNat_eq, hrest, hindex]

/-- Settles O1: the fields are quotients and remainders, and so are the operands' parts. -/
theorem decodeInTheOrderOfR84 : Obligations.DecodeInTheOrderOfR84 := by
  unfold Obligations.DecodeInTheOrderOfR84
  refine ⟨fun w => ?_, rfl, rfl, rfl⟩
  simp [decode, BitVec.le_def, decodeNoOperand_eq, decodeStart_eq, decodeRead_eq,
    ← fieldArg_toNat, ← fieldRz_toNat, ← fieldOp_toNat, BitVec.toNat_eq]

/-! ### The rows of R85 -/

theorem exists_instr_iff {p : Instr → Prop} : (∃ i, p i) ↔ p .reset ∨ p .startSha256 ∨
    p .startSha384 ∨ p .startSha512 ∨ (∃ b, p (.absorb b)) ∨ p .finish ∨ (∃ k, p (.read k)) ∨
    p .status := by
  constructor
  · rintro ⟨i, hi⟩
    cases i <;> grind
  · rintro (h | h | h | h | ⟨_, h⟩ | h | ⟨_, h⟩ | h) <;> exact ⟨_, h⟩

/-- A mask over the high bits selects the words with those high bits and any low ones. -/
theorem and_highMask_eq_iff {m n : Nat} {w : BitVec (m + n)} {hi : BitVec m} :
    w &&& (BitVec.allOnes m ++ 0#n) = hi ++ 0#n ↔ ∃ lo : BitVec n, hi ++ lo = w := by
  have hw : w.extractLsb' n m ++ w.extractLsb' 0 n = w := by
    rw [BitVec.extractLsb'_append_extractLsb'_eq_extractLsb' (Nat.zero_add n).symm]
    simp
  constructor
  · intro h
    rw [← hw, BitVec.and_append, BitVec.and_allOnes, BitVec.and_zero, BitVec.append_left_inj] at h
    exact ⟨_, h ▸ hw⟩
  · rintro ⟨lo, rfl⟩
    rw [BitVec.and_append, BitVec.and_allOnes, BitVec.and_zero]

theorem encode_absorb_eq_append (b : Byte) : encode (.absorb b) = 0x30#8 ++ b := by
  revert b; decide

theorem encode_read_eq_append (k : BitVec 6) : encode (.read k) = 0x140#10 ++ k := by
  revert k; decide

variable {w : CmdWord}

/-- A row without an operand has one word (R85). -/
theorem and_fullMask_eq_encode_iff {i : Instr} :
    w &&& 0xFFFF#16 = encode i ↔ decode w = .ok i := by
  have hfull : w &&& 0xFFFF#16 = w := BitVec.and_allOnes
  rw [hfull, decode_eq_ok_iff, eq_comm]

theorem absorbRow_iff : w &&& 0xFF00#16 = 0x3000#16 ↔ ∃ b, decode w = .ok (.absorb b) := by
  simp only [decode_eq_ok_iff, encode_absorb_eq_append]
  exact and_highMask_eq_iff (m := 8) (n := 8) (hi := 0x30#8)

theorem readRow_iff : w &&& 0xFFC0#16 = 0x5000#16 ↔ ∃ k, decode w = .ok (.read k) := by
  simp only [decode_eq_ok_iff, encode_read_eq_append]
  exact and_highMask_eq_iff (m := 10) (n := 6) (hi := 0x140#10)

/-- Settles O3: six rows of one word, two of a mask over the high bits, and together they are every
command. -/
theorem rowsMatchExactlyTheirWords : Obligations.RowsMatchExactlyTheirWords := by
  unfold Obligations.RowsMatchExactlyTheirWords
  intro w
  have hrow (i : Instr) : w &&& 0xFFFF#16 = encode i ↔ decode w = .ok i :=
    and_fullMask_eq_encode_iff
  refine ⟨hrow .reset, hrow .startSha256, hrow .startSha384, hrow .startSha512, absorbRow_iff,
    hrow .finish, readRow_iff, hrow .status, ?_⟩
  rw [exists_decode_error_iff, exists_instr_iff, ← absorbRow_iff, ← readRow_iff]
  simp [opcodeRows, rowMatches, ← hrow, encode]

/-! ### The well-formed words of R74 -/

/-- The four checks of R70 to R74 as bounds on the opcode and the operand. -/
theorem wellFormed_iff : CmdWord.wellFormed w = true ↔ w.toNat / 0x100 % 0x10 = 0 ∧
    (w.toNat / 0x1000 = 1 ∧ w.toNat % 0x100 = 0 ∨ w.toNat / 0x1000 = 2 ∧ w.toNat % 0x100 < 3 ∨
      w.toNat / 0x1000 = 3 ∨ w.toNat / 0x1000 = 4 ∧ w.toNat % 0x100 = 0 ∨
      w.toNat / 0x1000 = 5 ∧ w.toNat % 0x100 < 0x40 ∨
      w.toNat / 0x1000 = 6 ∧ w.toNat % 0x100 = 0) := by
  have hlow : 0x1000 ≤ w.toNat ↔ 1 ≤ w.toNat / 0x1000 := by omega
  have hhigh : w.toNat < 0x7000 ↔ w.toNat / 0x1000 < 7 := by omega
  have hvariant : w.toNat % 4 = w.toNat % 0x100 % 4 := by omega
  simp only [CmdWord.wellFormed, CmdWord.legalOpcode, CmdWord.rzZero, CmdWord.argReservedZero,
    CmdWord.knownVariant, hlow, hhigh, hvariant]
  generalize w.toNat / 0x1000 = op, w.toNat / 0x100 % 0x10 = rz, w.toNat % 0x100 = arg
  split <;> simp_all <;> omega

theorem wellFormed_encode (i : Instr) : CmdWord.wellFormed (encode i) = true := by
  cases i with
  | reset => exact Laws.EncodedWord.reset.1
  | startSha256 => exact Laws.EncodedWord.startSha256.1
  | startSha384 => exact Laws.EncodedWord.startSha384.1
  | startSha512 => exact Laws.EncodedWord.startSha512.1
  | absorb b => exact (Laws.EncodedWord.absorb b).1
  | finish => exact Laws.EncodedWord.finish.1
  | read k => exact (Laws.EncodedWord.read k).1
  | status => exact Laws.EncodedWord.status.1

/-- The four checks leave nothing for Decode to refuse (R84). -/
theorem exists_decode_of_wellFormed (h : CmdWord.wellFormed w = true) : ∃ i, decode w = .ok i := by
  obtain ⟨hrz, hrow⟩ := wellFormed_iff.1 h
  have hdecode := decodeInTheOrderOfR84.1 w
  rcases hrow with ⟨hop, harg⟩ | ⟨hop, harg⟩ | hop | ⟨hop, harg⟩ | ⟨hop, harg⟩ | ⟨hop, harg⟩ <;>
    simp [hop, hrz] at hdecode
  · exact ⟨.reset, by simp [hdecode, harg]⟩
  · rw [hdecode, if_neg (by omega), if_neg (by omega)]
    split_ifs <;> exact ⟨_, rfl⟩
  · exact ⟨_, hdecode⟩
  · exact ⟨.finish, by simp [hdecode, harg]⟩
  · exact ⟨_, by rw [hdecode, if_neg (by omega)]⟩
  · exact ⟨.status, by simp [hdecode, harg]⟩

theorem wellFormed_iff_decode_ok :
    CmdWord.wellFormed w = true ↔ ∃ i, decode w = .ok i := by
  refine ⟨exists_decode_of_wellFormed, ?_⟩
  rintro ⟨i, hi⟩
  rw [← encode_of_decode hi]
  exact wellFormed_encode i

/-- The 256 ABSORBs, by operand. -/
def everyAbsorb : List Instr := (List.finRange (2 ^ 8)).map (Instr.absorb ∘ BitVec.ofFin)

/-- The 64 READs, by operand. -/
def everyRead : List Instr := (List.finRange (2 ^ 6)).map (Instr.read ∘ BitVec.ofFin)

/-- Every command, each once (R71, R72). -/
def everyInstr : List Instr :=
  [.reset, .startSha256, .startSha384, .startSha512, .finish, .status] ++ everyAbsorb ++ everyRead

theorem mem_everyAbsorb (b : Byte) : Instr.absorb b ∈ everyAbsorb :=
  List.mem_map.2 ⟨b.toFin, List.mem_finRange _, rfl⟩

theorem mem_everyRead (k : BitVec 6) : Instr.read k ∈ everyRead :=
  List.mem_map.2 ⟨k.toFin, List.mem_finRange _, rfl⟩

theorem mem_everyInstr (i : Instr) : i ∈ everyInstr := by
  cases i with
  | absorb b => simp [everyInstr, mem_everyAbsorb]
  | read k => simp [everyInstr, mem_everyRead]
  | reset | startSha256 | startSha384 | startSha512 | finish | status => simp [everyInstr]

theorem everyInstr_length : everyInstr.length = 326 := by
  simp [everyInstr, everyAbsorb, everyRead]

theorem everyInstr_nodup : everyInstr.Nodup := by
  have habsorb : everyAbsorb.Nodup :=
    (List.nodup_finRange _).map fun a b h => congrArg BitVec.toFin (Instr.absorb.inj h)
  have hread : everyRead.Nodup :=
    (List.nodup_finRange _).map fun a b h => congrArg BitVec.toFin (Instr.read.inj h)
  have hdisjoint : everyAbsorb.Disjoint everyRead := by
    simp [everyAbsorb, everyRead, List.Disjoint]
  have hrest : List.Disjoint
      [Instr.reset, .startSha256, .startSha384, .startSha512, .finish, .status]
      (everyAbsorb ++ everyRead) := by
    simp [everyAbsorb, everyRead]
  rw [everyInstr, List.append_assoc, List.nodup_append', List.nodup_append']
  exact ⟨by decide, ⟨habsorb, hread, hdisjoint⟩, hrest⟩

/-- Settles O4: the first check of R84 refuses the illegal opcodes, `wellFormed_iff_decode_ok` is the
split, and the words are the encodings of `everyInstr`. -/
theorem everyWordWellFormedOrRefused : Obligations.EveryWordWellFormedOrRefused := by
  unfold Obligations.EveryWordWellFormedOrRefused
  refine ⟨fun w hop => ?_, rfl, fun w => wellFormed_iff_decode_ok, fun w => ?_,
    everyInstr.map encode, ?_, everyInstr_nodup.map encode_injective, fun w => ?_⟩
  · rw [decodeInTheOrderOfR84.1 w]
    exact if_pos hop
  · rw [exists_decode_error_iff, ← wellFormed_iff_decode_ok, Bool.not_eq_true]
  · rw [List.length_map, everyInstr_length]
  · simp [wellFormed_iff_decode_ok, decode_eq_ok_iff, mem_everyInstr]

/-- Settles O5, each word by evaluation. -/
theorem sampleWordsDecodeAsListed : Obligations.SampleWordsDecodeAsListed := by
  unfold Obligations.SampleWordsDecodeAsListed
  decide

end Sys2Proof
end

section
/-!
THEOREMS. Responses and refusals (R74, R76): only STATUS and an accepted READ respond, and no command
and no step answers a refusal of the model.
-/

namespace Sys2Proof.Machine

variable {s t : State}

/-- An effect keeps the responses, or is STATUS, or is an accepted READ (R76). -/
theorem Effect.response {i : Instr} (he : Effect i s t) :
    t.out = s.out ∨ (i = .status ∧ t = respond (statusByte s) s) ∨
    (∃ k b, i = .read k ∧ s.err = false ∧ Memory.read s.digest k.toNat = some b ∧
      t = respond b s) := by
  cases he with
  | dropped | finished => exact .inl rfl
  | outOfPhase | beyondDigest => exact .inl (recordError_out s _)
  | reset => exact .inl (resetCore_out s)
  | opened v => exact .inl (openSession_out s v)
  | stored v b | completed v b => exact .inl (storeByte_out s (fill v s.len) b)
  | status hi => exact .inr (.inl ⟨hi, rfl⟩)
  | digestByte v k b hi herr _ _ _ hb => exact .inr (.inr ⟨k, b, hi, herr, hb, rfl⟩)

/-- An effect that sets ERR gives no response. -/
theorem Effect.out_eq_of_sets_err {i : Instr} (he : Effect i s t) (hs : s.err = false)
    (ht : t.err = true) : t.out = s.out := by
  rcases he.response with hout | ⟨-, rfl⟩ | ⟨k, b, -, -, -, rfl⟩
  · exact hout
  · simp [hs] at ht
  · simp [hs] at ht

/-- Settles O26: the cases of `Effect.response`; beside the commands only `rst`, a wait and a refused
word remain, which respond nothing. -/
theorem onlyReadAndStatusRespond : Obligations.OnlyReadAndStatusRespond := by
  unfold Obligations.OnlyReadAndStatusRespond
  constructor
  · intro i s t hexec
    rcases (exec_effect hexec).response with hout | ⟨hi, rfl⟩ | ⟨k, b, hi, herr, hb, rfl⟩
    · exact .inl hout
    · exact .inr (.inl ⟨hi, rfl⟩)
    · exact .inr (.inr ⟨k, b, hi, herr, herr, hb, rfl⟩)
  · intro s t hstep hs ht
    rcases step_effect hstep with rfl | ⟨rest, -, rfl⟩ | ⟨i, rest, -, he⟩ | ⟨w, rest, -, -, rfl⟩ |
      ⟨w, rest, c, -, -, -, rfl⟩
    · rfl
    · exact resetCore_out _
    · exact he.out_eq_of_sets_err hs ht
    · rfl
    · exact recordError_out _ c

/-! ### Refusals -/

theorem outcomeOf_ne_refused (x : Except Fault State) (r : Refusal) : outcomeOf x ≠ .refused r := by
  cases x <;> simp

theorem exec_startOf_ne_refused (v : Variant) (s : State) (r : Refusal) :
    exec (startOf v) s ≠ .refused r := by
  intro h
  rcases exec_start_cases h with ⟨-, ho⟩ | ⟨-, ho⟩ <;> cases ho

/-- Every row of R85 has a meaning. -/
theorem exec_ne_refused (i : Instr) (s : State) (r : Refusal) : exec i s ≠ .refused r := by
  intro h
  cases i with
  | reset | status => cases h
  | startSha256 => exact exec_startOf_ne_refused .sha256 s r h
  | startSha384 => exact exec_startOf_ne_refused .sha384 s r h
  | startSha512 => exact exec_startOf_ne_refused .sha512 s r h
  | absorb b =>
    rcases exec_absorb_cases h with ⟨-, ho⟩ | ⟨-, -, ho⟩ | ⟨-, -, -, ho⟩ | ⟨v, -, -, -, -, ho⟩ |
      ⟨v, -, -, -, -, ho⟩
    · cases ho
    · cases ho
    · cases ho
    · cases ho
    · exact outcomeOf_ne_refused _ r ho.symm
  | finish =>
    rcases exec_finish_cases h with ⟨-, ho⟩ | ⟨-, -, ho⟩ | ⟨-, -, -, ho⟩ | ⟨v, -, -, -, -, ho⟩ |
      ⟨v, -, -, -, -, ho⟩
    · cases ho
    · cases ho
    · cases ho
    · exact outcomeOf_ne_refused _ r ho.symm
    · exact outcomeOf_ne_refused _ r ho.symm
  | read k =>
    rcases exec_read_cases h with ⟨-, ho⟩ | ⟨-, -, ho⟩ | ⟨-, -, -, ho⟩ | ⟨v, -, -, -, -, ho⟩ |
      ⟨v, b, -, -, -, -, -, ho⟩ | ⟨v, -, -, -, -, -, ho⟩ <;> cases ho

/-- Settles O36: a wait and `rst` answer a next state, a word that is no command an error entry or
none, and no command is refused. -/
theorem noStepIsRefusedByTheModel : Obligations.NoStepIsRefusedByTheModel := by
  unfold Obligations.NoStepIsRefusedByTheModel
  intro s r hstep
  rcases step_cases hstep with ⟨-, ho⟩ | ⟨rest, -, ho⟩ | ⟨w, rest, i, -, -, hexec⟩ |
    ⟨w, rest, c, -, -, hexec⟩
  · cases ho
  · cases ho
  · exact exec_ne_refused i _ r hexec
  · rcases execIllegal_cases hexec with ⟨-, ho⟩ | ⟨-, ho⟩ <;> cases ho

end Sys2Proof.Machine
end

section
/-!
THEOREMS. The layout of the digest (R81, R160, R161): words of equal length one after another.
-/

namespace Sys2Proof.Machine

/-- Where every run has `n` elements, element `k` of run `j` stands at `j * n + k`. -/
theorem flatMap_getElem?_of_length {α β : Type} {n : Nat} {f : α → List β}
    (hf : ∀ x, (f x).length = n) (xs : List α) (j : Nat) {k : Nat} (hk : k < n) :
    (xs.flatMap f)[j * n + k]? = xs[j]?.bind fun x => (f x)[k]? := by
  induction xs generalizing j with
  | nil => simp
  | cons x xs ih =>
    rw [List.flatMap_cons]
    cases j with
    | zero => simp [List.getElem?_append_left, hf, hk]
    | succ j =>
      have hskip : (j + 1) * n + k = n + (j * n + k) := by ring
      rw [List.getElem?_append_right (by rw [hf]; omega), hf, hskip, Nat.add_sub_cancel_left, ih,
        List.getElem?_cons_succ]

/-- Settles O52: `format` lays out `BE` of the first `OW` words, each of `w/8` bytes. -/
theorem digestLayoutByVariant : Obligations.DigestLayoutByVariant := by
  unfold Obligations.DigestLayoutByVariant
  refine ⟨fun v h j k hj hk => ?_, formatDigest_length, rfl, rfl, rfl⟩
  rw [formatDigest, flatMap_getElem?_of_length (fun x => bytesBE_length _ _) _ _ hk,
    List.getElem?_take_of_lt hj]
  simp only [bytesBE_getElem? _ hk]
  exact Option.map_eq_bind.symm

end Sys2Proof.Machine
end

section
/-!
THEOREMS. Padding as a function of the message (R100 to R105, R110 of spec/40_padder.md): the
zero-fill count by the place in the block, a stream of bytes cut into blocks, `pad` as the complete
blocks followed by the final ones, and the length suffix.
-/

namespace Sys2Proof.Machine

variable {v : Variant}

/-! ### The zero-fill count -/

theorem blockBytes_pos (v : Variant) : 0 < blockBytes v :=
  Nat.zero_lt_of_lt (suffixBytes_lt v)

/-- The zeros end the block that holds the last message byte where terminator and suffix fit beside
the message bytes, and the next block where they do not (R101, R104). -/
theorem zeroFillCount_eq (v : Variant) (n : Nat) :
    zeroFillCount v n =
      if n % blockBytes v < blockBytes v - suffixBytes v
      then blockBytes v - suffixBytes v - 1 - n % blockBytes v
      else 2 * blockBytes v - suffixBytes v - 1 - n % blockBytes v := by
  rcases blockBytes_cases v with ⟨hb, hs⟩ | ⟨hb, hs⟩ <;>
    · rw [zeroFillCount, hb, hs]
      split <;> omega

theorem zeroFillCount_of_fits {n : Nat} (h : n % blockBytes v < blockBytes v - suffixBytes v) :
    zeroFillCount v n = blockBytes v - suffixBytes v - 1 - n % blockBytes v := by
  rw [zeroFillCount_eq, if_pos h]

theorem zeroFillCount_of_not_fits {n : Nat}
    (h : blockBytes v - suffixBytes v ≤ n % blockBytes v) :
    zeroFillCount v n = 2 * blockBytes v - suffixBytes v - 1 - n % blockBytes v := by
  rw [zeroFillCount_eq, if_neg (Nat.not_lt.2 h)]

/-- Settles O40: existence and uniqueness are arithmetic modulo 64 and 128 from the two closed
forms. -/
theorem zeroFillCountIsUnique : Obligations.ZeroFillCountIsUnique := by
  unfold Obligations.ZeroFillCountIsUnique
  intro v n
  have hfits := zeroFillCount_of_fits (v := v) (n := n)
  have hnot := zeroFillCount_of_not_fits (v := v) (n := n)
  rcases blockBytes_cases v with ⟨hb, hs⟩ | ⟨hb, hs⟩ <;>
    · rw [hb, hs] at hfits hnot ⊢
      refine ⟨by omega, by omega, fun z hz hmul => by omega, fun h => hfits (by omega), hnot⟩

/-! ### A stream of bytes in blocks -/

/-- The whole blocks of `n` elements of a list, in order; `pad` and `completeBlocks` are made so. -/
def chunks {α : Type} (n : Nat) (xs : List α) : List (List α) :=
  (List.range (xs.length / n)).map fun k => (xs.drop (k * n)).take n

theorem pad_eq_chunks (v : Variant) (m : List Byte) :
    pad v m = chunks (blockBytes v) (padStream v m) := rfl

theorem completeBlocks_eq_chunks (v : Variant) (m : List Byte) :
    completeBlocks v m = chunks (blockBytes v) m := rfl

section
variable {α : Type} {n : Nat}

@[simp] theorem chunks_length (n : Nat) (xs : List α) : (chunks n xs).length = xs.length / n := by
  simp [chunks]

theorem chunks_getElem? {xs : List α} {k : Nat} (h : k < xs.length / n) :
    (chunks n xs)[k]? = some ((xs.drop (k * n)).take n) := by
  simp [chunks, h]

theorem length_of_mem_chunks {xs X : List α} (h : X ∈ chunks n xs) : X.length = n := by
  obtain ⟨k, hk, rfl⟩ := List.mem_map.1 h
  have hend : (k + 1) * n ≤ xs.length :=
    (Nat.mul_le_mul_right n (List.mem_range.1 hk)).trans (Nat.div_mul_le_self _ _)
  rw [Nat.succ_mul] at hend
  rw [List.length_take, List.length_drop]
  omega

/-- Joined, the whole blocks give back the list up to the incomplete one. -/
theorem flatten_chunks (n : Nat) (xs : List α) :
    (chunks n xs).flatten = xs.take (xs.length / n * n) := by
  have hfirst (j : Nat) :
      ((List.range j).map fun k => (xs.drop (k * n)).take n).flatten = xs.take (j * n) := by
    induction j with
    | zero => simp
    | succ j ih =>
      rw [List.range_succ, List.map_append, List.flatten_append, ih, Nat.succ_mul, List.take_add]
      simp
  exact hfirst _

/-- Cutting blocks of `n` elements and joining them is no change. -/
theorem chunks_flatten (hn : 0 < n) {L : List (List α)} (h : ∀ X ∈ L, X.length = n) :
    chunks n L.flatten = L := by
  have hlen : L.flatten.length = L.length * n := by
    rw [List.length_flatten, List.map_congr_left h, List.map_const', List.sum_replicate,
      smul_eq_mul]
  have hcount : (chunks n L.flatten).length = L.length := by
    rw [chunks_length, hlen, Nat.mul_div_cancel _ hn]
  rw [List.eq_iff_flatten_eq, flatten_chunks, hlen, Nat.mul_div_cancel _ hn, ← hlen,
    List.take_length, List.map_congr_left h, List.map_congr_left fun X => length_of_mem_chunks]
  simp [hcount]

end

/-! ### The final one or two blocks -/

/-- The suffix by LEN is the suffix by the message length (R80, R110). -/
theorem suffixValue_ofNat (v : Variant) (n : Nat) :
    suffixValue v (BitVec.ofNat 128 (8 * n)) = 8 * n % 2 ^ (8 * suffixBytes v) := by
  have hdvd : 2 ^ (8 * suffixBytes v) ∣ 2 ^ 128 := by cases v <;> decide
  rw [suffixValue, BitVec.toNat_ofNat, Nat.mod_mod_of_dvd _ hdvd]

/-- The suffix that FINISH writes (R107). -/
def suffixOf (v : Variant) (len : BitVec 128) : List Byte :=
  bytesBE (suffixBytes v) (suffixValue v len)

@[simp] theorem suffixOf_length (v : Variant) (len : BitVec 128) :
    (suffixOf v len).length = suffixBytes v := bytesBE_length _ _

theorem suffixOf_ofNat (v : Variant) (n : Nat) :
    suffixOf v (BitVec.ofNat 128 (8 * n)) = lengthSuffix v n := by
  rw [suffixOf, suffixValue_ofNat, lengthSuffix]

/-- Bytes, the terminator and zeros fill the block or its part before the suffix. -/
theorem length_append_terminator {bs : List Byte} {stop : Nat} (h : bs.length < stop) :
    (bs ++ [0x80#8] ++ zeros (stop - 1 - bs.length)).length = stop := by
  rw [List.length_append, List.length_append, List.length_singleton, zeros_length]
  omega

section
variable {pre : List Byte} (len : BitVec 128)

/-- Cases A and B of R104: one final block. -/
theorem finalBlocks_of_fits (h : pre.length < blockBytes v - suffixBytes v) :
    finalBlocks v pre len = [pre ++ [0x80#8] ++
      zeros (blockBytes v - suffixBytes v - 1 - pre.length) ++ suffixOf v len] := if_pos h

/-- Case C of R104: two final blocks. -/
theorem finalBlocks_of_not_fits (h : blockBytes v - suffixBytes v ≤ pre.length) :
    finalBlocks v pre len = [pre ++ [0x80#8] ++ zeros (blockBytes v - 1 - pre.length),
      zeros (blockBytes v - suffixBytes v) ++ suffixOf v len] := if_neg (Nat.not_lt.2 h)

theorem length_of_mem_finalBlocks (hpre : pre.length < blockBytes v) {X : List Byte}
    (h : X ∈ finalBlocks v pre len) : X.length = blockBytes v := by
  have hsuffix := Nat.sub_add_cancel (suffixBytes_lt v).le
  rcases Nat.lt_or_ge pre.length (blockBytes v - suffixBytes v) with hfit | hfit
  · rw [finalBlocks_of_fits len hfit, List.mem_singleton] at h
    rw [h, List.length_append, length_append_terminator hfit, suffixOf_length, hsuffix]
  · rw [finalBlocks_of_not_fits len hfit, List.mem_pair] at h
    rcases h with rfl | rfl
    · exact length_append_terminator hpre
    · rw [List.length_append, zeros_length, suffixOf_length, hsuffix]

theorem finalBlocks_ne_nil (v : Variant) (pre : List Byte) : finalBlocks v pre len ≠ [] := by
  rcases Nat.lt_or_ge pre.length (blockBytes v - suffixBytes v) with hfit | hfit
  · simp [finalBlocks_of_fits len hfit]
  · simp [finalBlocks_of_not_fits len hfit]

end

theorem zeros_add (a b : Nat) : zeros (a + b) = zeros a ++ zeros b := List.replicate_add ..

/-- Joined, the final blocks are the bytes left over, the terminator, the zero-fill and the suffix
of the message length (R104). -/
theorem flatten_finalBlocks (v : Variant) (m : List Byte) :
    (finalBlocks v (lastBytes v m) (BitVec.ofNat 128 (8 * m.length))).flatten =
      lastBytes v m ++ [0x80#8] ++ zeros (zeroFillCount v m.length) ++
        lengthSuffix v m.length := by
  have hlast := lastBytes_length v m
  rcases Nat.lt_or_ge (lastBytes v m).length (blockBytes v - suffixBytes v) with hfit | hfit
  · rw [finalBlocks_of_fits _ hfit, suffixOf_ofNat, zeroFillCount_of_fits (hlast ▸ hfit), hlast]
    simp
  · have hlt := Nat.mod_lt m.length (blockBytes_pos v)
    have hzeros : zeroFillCount v m.length =
        blockBytes v - 1 - m.length % blockBytes v + (blockBytes v - suffixBytes v) := by
      have := suffixBytes_lt v
      rw [zeroFillCount_of_not_fits (hlast ▸ hfit)]
      omega
    rw [finalBlocks_of_not_fits _ hfit, suffixOf_ofNat, hzeros, hlast, zeros_add]
    simp

/-- Settles O42: both sides are lists of blocks of `B` bytes, and joined they are the same
stream. -/
theorem padIsCompleteThenFinalBlocks : Obligations.PadIsCompleteThenFinalBlocks := by
  unfold Obligations.PadIsCompleteThenFinalBlocks
  intro v m
  have hstream : padStream v m = (completeBlocks v m ++
      finalBlocks v (lastBytes v m) (BitVec.ofNat 128 (8 * m.length))).flatten := by
    rw [List.flatten_append, flatten_finalBlocks, completeBlocks_eq_chunks, flatten_chunks,
      lastBytes, padStream]
    simp only [← List.append_assoc, List.take_append_drop]
  have hlast : (lastBytes v m).length < blockBytes v :=
    lastBytes_length v m ▸ Nat.mod_lt _ (blockBytes_pos v)
  rw [pad_eq_chunks, hstream]
  refine chunks_flatten (blockBytes_pos v) fun X hX => ?_
  rcases List.mem_append.1 hX with hX | hX
  · exact length_of_mem_chunks hX
  · exact length_of_mem_finalBlocks _ hlast hX

/-! ### The padded stream -/

theorem padStream_length (v : Variant) (m : List Byte) :
    (padStream v m).length = m.length + 1 + zeroFillCount v m.length + suffixBytes v := by
  simp only [padStream, lengthSuffix, List.length_append, List.length_singleton, zeros_length,
    bytesBE_length]

/-- Settles O41: the stream is a multiple of `B` long (O40), so no byte of it is outside a whole
block, and the count is its length divided by `B`. -/
theorem paddedMessageIsWholeBlocks : Obligations.PaddedMessageIsWholeBlocks := by
  unfold Obligations.PaddedMessageIsWholeBlocks
  intro v m
  have hlen := padStream_length v m
  obtain ⟨-, hmul, -, hfits, hnot⟩ := zeroFillCountIsUnique v m.length
  have hwhole : (padStream v m).length / blockBytes v * blockBytes v = (padStream v m).length :=
    Nat.div_mul_cancel (Nat.dvd_of_mod_eq_zero (hlen ▸ hmul))
  have hflatten : (pad v m).flatten = padStream v m := by
    rw [pad_eq_chunks, flatten_chunks, hwhole, List.take_length]
  have hcount : (pad v m).length =
      (m.length + 1 + zeroFillCount v m.length + suffixBytes v) / blockBytes v := by
    rw [pad_eq_chunks, chunks_length, hlen]
  have hblocks : (pad v m).length =
      if m.length % blockBytes v ≤ blockBytes v - suffixBytes v - 1
      then m.length / blockBytes v + 1 else m.length / blockBytes v + 2 := by
    rw [hcount]
    rcases blockBytes_cases v with ⟨hb, hs⟩ | ⟨hb, hs⟩ <;>
      · rw [hb, hs] at hfits hnot ⊢
        split <;> omega
  refine ⟨?_, fun X => length_of_mem_chunks, hflatten, hlen, hblocks, ?_⟩ <;>
    rw [hblocks]
  · rcases blockBytes_cases v with ⟨hb, hs⟩ | ⟨hb, hs⟩ <;>
      · rw [hb, hs]
        split <;> omega
  · split <;> exact Nat.succ_pos _

/-! ### The length suffix -/

theorem natBE_lengthSuffix (v : Variant) (n : Nat) :
    natBE (lengthSuffix v n) = 8 * n % 2 ^ (8 * suffixBytes v) := by
  rw [lengthSuffix, natBE_bytesBE, Nat.mod_mod]

/-- Settles O44: the suffix is `8n` modulo `2^(8S)` by `n` and by LEN; the wraps are its values. -/
theorem lengthSuffixWraps : Obligations.LengthSuffixWraps := by
  unfold Obligations.LengthSuffixWraps
  refine ⟨by decide, by decide, ?_, by decide, natBE_lengthSuffix, suffixValue_ofNat⟩
  rw [natBE_lengthSuffix]
  decide

/-- Settles O43: the sixteen rows are evaluated. -/
theorem padCornerCases : Obligations.PadCornerCases := by
  unfold Obligations.PadCornerCases
  decide

end Sys2Proof.Machine
end

section
/-!
THEOREMS. The padding commands (R106, R107 of spec/40_padder.md): the contents of BUF from index 0
as a list that grows at its end, ABSORB by the place of its byte, FINISH as the ProcessBlock calls
of the final blocks.
-/

namespace Sys2Proof.Machine

variable {v : Variant} {s : State}

/-! ### The bytes from index 0 -/

/-- The space holds the bytes `bs` from index 0 up. -/
def Memory.Begins (m : Memory) (bs : List Byte) : Prop :=
  ∀ i, i < bs.length → Memory.read m i = bs[i]?

theorem Memory.begins_nil (m : Memory) : Memory.Begins m [] :=
  fun _ hi => absurd hi (Nat.not_lt_zero _)

/-- A run written behind the bytes held continues them. -/
theorem Memory.Begins.writeBytes {m : Memory} {bs : List Byte} (h : Memory.Begins m bs) {a : Nat}
    (ha : bs.length = a) (cs : List Byte) :
    Memory.Begins (Memory.writeBytes m a cs) (bs ++ cs) := by
  subst ha
  intro i hi
  rw [List.length_append] at hi
  rw [Memory.read_writeBytes]
  rcases Nat.lt_or_ge i bs.length with hlt | hge
  · rw [if_neg (by omega), h i hlt, List.getElem?_append_left hlt]
  · rw [if_pos ⟨hge, hi⟩, List.getElem?_append_right hge]

theorem Memory.Begins.write {m : Memory} {bs : List Byte} (h : Memory.Begins m bs) {a : Nat}
    (ha : bs.length = a) (b : Byte) : Memory.Begins (Memory.write m a b) (bs ++ [b]) :=
  h.writeBytes ha [b]

theorem Memory.begins_zeroFill (m : Memory) (n : Nat) :
    Memory.Begins (Memory.zeroFill m 0 n) (zeros n) :=
  (Memory.begins_nil m).writeBytes rfl (zeros n)

theorem Memory.Begins.terminated {m : Memory} {bs : List Byte} (h : Memory.Begins m bs) {f : Nat}
    (hf : bs.length = f) (stop : Nat) :
    Memory.Begins (terminated m f stop) (bs ++ [0x80#8] ++ zeros (stop - 1 - f)) :=
  (h.write hf 0x80#8).writeBytes (by simp [hf]) (zeros (stop - 1 - f))

theorem Memory.Begins.readRange {m : Memory} {bs : List Byte} (h : Memory.Begins m bs) {n : Nat}
    (hn : bs.length = n) : Memory.readRange m 0 n = .ok bs :=
  (Memory.readRange_ok_iff m 0 n bs).2 ⟨hn, fun i hi => by rw [Nat.zero_add, h i (hn ▸ hi)]⟩

/-! ### ABSORB -/

/-- ABSORB of a byte that leaves the block incomplete (R106). -/
theorem exec_absorb_of_incomplete (b : Byte) (hphase : s.phase = .absorbing)
    (hvar : s.var = .sel v) (herr : s.err = false) (hfill : fill v s.len + 1 < blockBytes v) :
    exec (.absorb b) s = .next (storeByte (fill v s.len) b s) := by
  rw [exec_absorb_of_open b hphase hvar herr, absorbByte, if_neg (by omega)]

/-- ABSORB of the byte that completes the block is ProcessBlock with that byte stored (R106). -/
theorem exec_absorb_of_complete (b : Byte) (hphase : s.phase = .absorbing)
    (hvar : s.var = .sel v) (herr : s.err = false) (hfill : fill v s.len + 1 = blockBytes v) :
    exec (.absorb b) s = outcomeOf (processBlock v (storeByte (fill v s.len) b s)) := by
  rw [exec_absorb_of_open b hphase hvar herr, absorbByte, if_pos (by omega)]

/-- Settles O17: by the place of the byte in the block; the bytes of a completed block are the run
that ProcessBlock reads. -/
theorem absorbAppendsAByte : Obligations.AbsorbAppendsAByte := by
  unfold Obligations.AbsorbAppendsAByte
  refine ⟨decode_encode_absorb, fun s b herr => unlessLocked_locked herr,
    fun s b herr => ⟨?_, ?_, ?_⟩⟩
  · intro v hphase hvar hfill
    exact exec_absorb_of_incomplete b hphase hvar herr hfill
  · intro v block hphase hvar hfill hlen hread
    have hbegins : Memory.Begins (storeByte (fill v s.len) b s).buf block :=
      fun i hi => hread i (hlen ▸ hi)
    obtain ⟨ws, r, hp⟩ := processBlock_of_block (hbegins.readRange hlen)
    exact ⟨ws, r, by rw [exec_absorb_of_complete b hphase hvar herr hfill, hp]; rfl⟩
  · intro hphase
    show unlessLocked (performAbsorb b) s = _
    rw [unlessLocked_open herr, performAbsorb, if_neg hphase]
    rfl

/-! ### Calls of ProcessBlock -/

@[simp] theorem setBuf_setBuf (m m' : Memory) (s : State) :
    setBuf m (setBuf m' s) = setBuf m s := rfl

theorem exists_processBlock {m : Memory} {X : List Byte} (s : State)
    (hread : Memory.readRange m 0 (blockBytes v) = .ok X) :
    ∃ c, processBlock v (setBuf m s) = .ok c := by
  obtain ⟨ws, r, hcall⟩ := processBlock_of_block (s := setBuf m s) hread
  exact ⟨_, hcall⟩

theorem processBlock_buf {c : State} (h : processBlock v s = .ok c) : c.buf = s.buf := by
  obtain ⟨_, _, _, rfl⟩ := processBlock_ok h
  rfl

theorem processBlock_len {c : State} (h : processBlock v s = .ok c) : c.len = s.len := by
  obtain ⟨_, _, _, rfl⟩ := processBlock_ok h
  rfl

/-- From `s`, ProcessBlock called once per block of the list, in order, with that block in
BUF[0..B-1] and nothing but BUF written before a call, leads to the last state (R108). -/
inductive Processes (v : Variant) : State → List (List Byte) → State → Prop
  | nil (s : State) : Processes v s [] s
  | cons {s c d : State} {m : Memory} {X : List Byte} {Xs : List (List Byte)}
      (hread : Memory.readRange m 0 (blockBytes v) = .ok X)
      (hcall : processBlock v (setBuf m s) = .ok c) (hrest : Processes v c Xs d) :
      Processes v s (X :: Xs) d

section
variable {d : State} {Xs : List (List Byte)}

/-- The calls fold their blocks into H, in order, and write nothing else but BUF, W and a..h. -/
theorem Processes.exists_eq (h : Processes v s Xs d) :
    ∃ m ws r, d = { s with
      buf := m, schedule := ws, rounds := r, hash := Xs.foldl (compressBlock v) s.hash } := by
  induction h with
  | nil s => exact ⟨s.buf, s.schedule, s.rounds, rfl⟩
  | @cons s c d m X Xs hread hcall _ ih =>
    obtain ⟨m', ws, r, rfl⟩ := ih
    obtain ⟨_, _, hX⟩ := processBlock_of_block (s := setBuf m s) hread
    obtain rfl := Except.ok.inj (hX.symm.trans hcall)
    exact ⟨m', ws, r, rfl⟩

/-- The last block, where there is one, is left in BUF. -/
theorem Processes.readRange_getLastD (h : Processes v s Xs d) {Z : List Byte}
    (hZ : Memory.readRange s.buf 0 (blockBytes v) = .ok Z) :
    Memory.readRange d.buf 0 (blockBytes v) = .ok (Xs.getLastD Z) := by
  induction h generalizing Z with
  | nil s => exact hZ
  | cons hread hcall _ ih =>
    rw [List.getLastD_cons]
    exact ih (by rw [processBlock_buf hcall]; exact hread)

theorem Processes.readRange_last {X Z : List Byte} (h : Processes v s (X :: Xs) d) :
    Memory.readRange d.buf 0 (blockBytes v) = .ok ((X :: Xs).getLastD Z) := by
  cases h with
  | cons hread hcall hrest =>
    rw [List.getLastD_cons]
    exact hrest.readRange_getLastD (by rw [processBlock_buf hcall]; exact hread)

end

/-! ### FINISH -/

/-- The end of FINISH is a call of ProcessBlock, of the bytes in BUF before the suffix and the
suffix, and then the digest of H (R107). -/
theorem sealMessage_of_begins (s : State) {m : Memory} {bs : List Byte} (h : Memory.Begins m bs)
    (hlen : bs.length = blockBytes v - suffixBytes v) :
    ∃ d, Processes v s [bs ++ suffixOf v s.len] d ∧
      sealMessage v (setBuf m s) = .ok (storeDigest (formatDigest v d.hash) d) := by
  have hread : Memory.readRange (Memory.writeBE m (blockBytes v - suffixBytes v) (suffixBytes v)
      (suffixValue v s.len)) 0 (blockBytes v) = .ok (bs ++ suffixOf v s.len) :=
    (h.writeBytes hlen (suffixOf v s.len)).readRange (by
      rw [List.length_append, hlen, suffixOf_length, Nat.sub_add_cancel (suffixBytes_lt v).le])
  obtain ⟨d, hcall⟩ := exists_processBlock s hread
  refine ⟨d, .cons hread hcall (.nil d), ?_⟩
  rw [sealMessage_eq_bind, setBuf_buf, setBuf_len, setBuf_setBuf, hcall]
  rfl

section
variable {bs : List Byte} (h : Memory.Begins s.buf bs)
include h

theorem padOneBlock_of_begins (hfit : bs.length < blockBytes v - suffixBytes v) :
    ∃ d, Processes v s (finalBlocks v bs s.len) d ∧
      padOneBlock v bs.length s = .ok (storeDigest (formatDigest v d.hash) d) := by
  rw [finalBlocks_of_fits s.len hfit]
  exact sealMessage_of_begins s (h.terminated rfl (blockBytes v - suffixBytes v))
    (length_append_terminator hfit)

theorem padTwoBlocks_of_begins (hlt : bs.length < blockBytes v)
    (hfit : blockBytes v - suffixBytes v ≤ bs.length) :
    ∃ d, Processes v s (finalBlocks v bs s.len) d ∧
      padTwoBlocks v bs.length s = .ok (storeDigest (formatDigest v d.hash) d) := by
  have hread := (h.terminated rfl (blockBytes v)).readRange (length_append_terminator hlt)
  obtain ⟨c, hcall⟩ := exists_processBlock s hread
  obtain ⟨d, hd, hseal⟩ := sealMessage_of_begins c
    (Memory.begins_zeroFill c.buf (blockBytes v - suffixBytes v)) (zeros_length _)
  rw [processBlock_len hcall, setBuf_len] at hd
  rw [finalBlocks_of_not_fits s.len hfit]
  refine ⟨d, .cons hread hcall hd, ?_⟩
  rw [padTwoBlocks_eq_bind, hcall]
  exact hseal

/-- FINISH is the calls of ProcessBlock of the final blocks, in order, and then the digest of H
(R107, R108). -/
theorem exec_finish_of_begins (hphase : s.phase = .absorbing) (hvar : s.var = .sel v)
    (herr : s.err = false) (hlen : bs.length = fill v s.len) :
    ∃ d, Processes v s (finalBlocks v bs s.len) d ∧
      exec .finish s = .next (storeDigest (formatDigest v d.hash) d) := by
  have hexec : exec .finish s = finishMessage s v := by
    show unlessLocked performFinish s = _
    rw [unlessLocked_open herr, performFinish, if_pos hphase, withVariant_sel hvar]
  rw [hexec, finishMessage, ← hlen]
  split
  · rename_i hfit
    simpa only [outcomeOf_next] using padTwoBlocks_of_begins h (hlen ▸ fill_lt v s.len) hfit
  · rename_i hfit
    simpa only [outcomeOf_next] using padOneBlock_of_begins h (Nat.not_le.1 hfit)

end

/-- Settles O18: FINISH is the calls of ProcessBlock of the final blocks, which fold them into H and
leave the last in BUF, and then the digest. -/
theorem finishPadsAndFormats : Obligations.FinishPadsAndFormats := by
  unfold Obligations.FinishPadsAndFormats
  refine ⟨by decide, fun s herr => unlessLocked_locked herr, fun s herr => ⟨?_, ?_⟩⟩
  · intro v pre hphase hvar hlen hread
    obtain ⟨d, hd, hexec⟩ := exec_finish_of_begins hread hphase hvar herr hlen
    obtain ⟨X, Xs, hfinal⟩ := List.exists_cons_of_ne_nil (finalBlocks_ne_nil s.len v pre)
    rw [hfinal] at hd ⊢
    obtain ⟨-, hlast⟩ := (Memory.readRange_ok_iff _ _ _ _).1 (hd.readRange_last (Z := []))
    obtain ⟨m, ws, r, rfl⟩ := hd.exists_eq
    exact ⟨_, hexec, rfl, by simpa using hlast, Memory.read_writeBytes_nil _, rfl, rfl, rfl, herr,
      rfl, rfl, rfl⟩
  · intro hphase
    show unlessLocked performFinish s = _
    rw [unlessLocked_open herr, performFinish, if_neg hphase]
    rfl

end Sys2Proof.Machine
end

section
/-!
THEOREMS. A session processes the padded message (R108 of spec/40_padder.md): the blocks of `pad` by
their number, and each command of the session as the ProcessBlock calls of its blocks.
-/

namespace Sys2Proof.Machine

variable {v : Variant} {s : State} {m : List Byte}

/-! ### The blocks of `pad` by number -/

/-- The bytes before and after a byte of a message. -/
theorem exists_eq_append_of_getElem? {m : List Byte} {k : Nat} {b : Byte} (h : m[k]? = some b) :
    ∃ p rest, m = p ++ b :: rest ∧ p.length = k := by
  obtain ⟨hk, rfl⟩ := List.getElem?_eq_some_iff.1 h
  refine ⟨m.take k, m.drop (k + 1), ?_, List.length_take_of_le hk.le⟩
  rw [← List.drop_eq_getElem_cons hk, List.take_append_drop]

/-- A block complete in the first bytes of a message is that block of the padded message. -/
theorem pad_getElem?_of_complete (m rest : List Byte) (b : Byte)
    (hcomplete : m.length % blockBytes v + 1 = blockBytes v) :
    (pad v (m ++ b :: rest))[m.length / blockBytes v]? = some (lastBytes v m ++ [b]) := by
  have hblocks : m.length / blockBytes v < (m ++ b :: rest).length / blockBytes v := by
    rw [← Nat.succ_le_iff, Nat.succ_eq_add_one, ← succ_div_of_complete hcomplete]
    exact Nat.div_le_div_right (by simp)
  have hfull : (lastBytes v m ++ [b]).length = blockBytes v := by
    simp [lastBytes_length, hcomplete]
  have hdrop : (m ++ b :: rest).drop (m.length / blockBytes v * blockBytes v) =
      lastBytes v m ++ [b] ++ rest := by
    rw [List.drop_append_of_le_length (Nat.div_mul_le_self _ _), lastBytes,
      List.append_cons]
  rw [padIsCompleteThenFinalBlocks, completeBlocks_eq_chunks,
    List.getElem?_append_left (by rwa [chunks_length]), chunks_getElem? hblocks, hdrop,
    List.take_left' hfull]

theorem pad_length_eq (v : Variant) (m : List Byte) :
    (pad v m).length = m.length / blockBytes v +
      (finalBlocks v (lastBytes v m) (BitVec.ofNat 128 (8 * m.length))).length := by
  rw [padIsCompleteThenFinalBlocks, List.length_append, completeBlocks_eq_chunks, chunks_length]

/-- Behind the complete blocks of a message `pad` has its final ones. -/
theorem pad_getElem?_add (v : Variant) (m : List Byte) (j : Nat) :
    (pad v m)[m.length / blockBytes v + j]? =
      (finalBlocks v (lastBytes v m) (BitVec.ofNat 128 (8 * m.length)))[j]? := by
  have hlen : (completeBlocks v m).length = m.length / blockBytes v := chunks_length _ m
  rw [padIsCompleteThenFinalBlocks v m, ← hlen, List.getElem?_append_right (Nat.le_add_right _ _),
    Nat.add_sub_cancel_left]

/-! ### The steps of a session -/

theorem Absorbed.fill_eq_mod (h : Absorbed v m s) : fill v s.len = m.length % blockBytes v := by
  rw [h.fill_eq_length, lastBytes_length]

/-- The ABSORB that completes a block has that block in BUF. -/
theorem Absorbed.readRange_write (h : Absorbed v m s) (b : Byte)
    (hcomplete : m.length % blockBytes v + 1 = blockBytes v) :
    Memory.readRange (Memory.write s.buf (m.length % blockBytes v) b) 0 (blockBytes v) =
      .ok (lastBytes v m ++ [b]) := by
  have hlast := lastBytes_length v m
  exact (Memory.Begins.write h.buf hlast b).readRange (by simp [hlast, hcomplete])

/-- A byte at place `n mod B` completes a block when `n + 1` bytes are whole blocks. -/
theorem succ_mod_eq_zero_iff (v : Variant) (n : Nat) :
    (n + 1) % blockBytes v = 0 ↔ n % blockBytes v + 1 = blockBytes v := by
  rcases blockBytes_cases v with ⟨hb, -⟩ | ⟨hb, -⟩ <;>
    · rw [hb]
      omega

/-- The step that takes an ABSORB in a session: ProcessBlock with the byte stored where it completes
a block, and else the byte stored. -/
theorem Absorbed.step_absorb (h : Absorbed v m s) {b : Byte} {p : List PortInput}
    (hport : s.port = .word (encode (.absorb b)) :: p) :
    step s = if (m.length + 1) % blockBytes v = 0
      then outcomeOf (processBlock v
        (storeByte (m.length % blockBytes v) b { s with port := s.port.tail }))
      else .next (storeByte (m.length % blockBytes v) b { s with port := s.port.tail }) := by
  have hlt := fill_lt v s.len
  have hiff := succ_mod_eq_zero_iff v m.length
  rw [← h.fill_eq_mod] at hiff
  rw [step_of_decode hport (decode_encode_absorb b), hport, List.tail_cons, ← h.fill_eq_mod]
  split
  · rename_i hmul
    exact exec_absorb_of_complete b h.phase h.var h.err (hiff.1 hmul)
  · rename_i hmul
    exact exec_absorb_of_incomplete b h.phase h.var h.err
      (lt_of_le_of_ne hlt fun hfill => hmul (hiff.2 hfill))

/-- The step that takes the FINISH of a session: ProcessBlock of the final blocks of the message,
and then the digest. -/
theorem Absorbed.step_finish (h : Absorbed v m s) (hport : s.port = wordsOf [.finish]) :
    ∃ d, Processes v { s with port := [] }
        (finalBlocks v (lastBytes v m) (BitVec.ofNat 128 (8 * m.length))) d ∧
      step s = .next (storeDigest (formatDigest v d.hash) d) := by
  rw [step_of_decode hport (decode_encode .finish), ← h.len]
  exact exec_finish_of_begins (s := { s with port := [] }) h.buf h.phase h.var h.err
    h.fill_eq_length.symm

/-- The word that comes after the first bytes of a session is the ABSORB of the next byte, or the
FINISH; the state that meets it has absorbed those bytes. -/
theorem runSteps_sessionScript (v : Variant) (m rest : List Byte) (herr : s.err = false) :
    ∃ t, runSteps (m.length + 1) { s with port := wordsOf (sessionScript v (m ++ rest)) } =
        .next t ∧ Absorbed v m t ∧ t.port = wordsOf (absorbs rest ++ [.finish]) := by
  obtain ⟨t, hrun, ht, hport, -⟩ := runSteps_start_absorbs v m
    (p := wordsOf (absorbs rest ++ [.finish]))
    (s := { s with port := wordsOf (sessionScript v (m ++ rest)) }) herr
    (by simp [sessionScript, absorbs, wordsOf])
  exact ⟨t, hrun, ht, hport⟩

/-- Settles O56: each command of the session is met by a state that has absorbed the bytes before
it. A block that an ABSORB completes is a complete block of the message, so one of `pad`; the blocks
FINISH processes are the final ones, which `pad` has behind the complete ones. -/
theorem sessionProcessesThePaddedBlocks : Obligations.SessionProcessesThePaddedBlocks := by
  unfold Obligations.SessionProcessesThePaddedBlocks
  intro v m s herr
  refine ⟨fun k b hb => ?_, ?_⟩
  · obtain ⟨p, rest, rfl, rfl⟩ := exists_eq_append_of_getElem? hb
    obtain ⟨t, hrun, ht, hport⟩ := runSteps_sessionScript v p (b :: rest) herr
    have hstep := ht.step_absorb hport
    refine ⟨t, _, hrun, rfl, ?_⟩
    split
    · rename_i hmul
      have hcomplete := (succ_mod_eq_zero_iff v p.length).1 hmul
      rw [if_pos hmul] at hstep
      exact ⟨_, pad_getElem?_of_complete p rest b hcomplete, ht.readRange_write b hcomplete,
        hstep⟩
    · rename_i hmul
      rw [if_neg hmul] at hstep
      exact hstep
  · obtain ⟨t, hrun, ht, hport⟩ := runSteps_sessionScript v m [] herr
    rw [List.append_nil] at hrun
    obtain ⟨d, hd, hstep⟩ := ht.step_finish hport
    have hcount := pad_length_eq v m
    have hblock (j : Nat) := pad_getElem?_add v m j
    have hlast := lastBytes_length v m
    refine ⟨t, hrun, ?_⟩
    split
    · rename_i hfit
      rw [← hlast] at hfit
      simp only [finalBlocks_of_fits _ hfit] at hd hcount hblock
      cases hd with
      | cons hread hcall hrest =>
        cases hrest
        exact ⟨_, _, d, hcount, hblock 0, hread, hcall, hstep⟩
    · rename_i hfit
      rw [← hlast, Nat.not_lt] at hfit
      simp only [finalBlocks_of_not_fits _ hfit] at hd hcount hblock
      cases hd with
      | @cons _ c _ _ _ _ hread hcall hrest =>
        cases hrest with
        | cons hread' hcall' hrest' =>
          cases hrest'
          exact ⟨_, _, _, _, c, d, hcount, hblock 0, hblock 1, hread, hcall, hread', hcall',
            hstep⟩

end Sys2Proof.Machine
end

section
/-!
THEOREMS. The Block Decoder (R120, R121 of spec/41_block_decoder.md): the block in runs of `q = w/8`
bytes, each read as a word by `be`, and `BE_q` of the words in order as the inverse.
-/

namespace Sys2Proof.Machine

variable {w q : Nat}

/-- `BE_q` inverts the reading of `q` bytes as a word (R10, R120). -/
theorem bytesBE_ofNat_natBE (hw : w = 8 * q) {X : List Byte} (hX : X.length = q) :
    bytesBE q (BitVec.ofNat w (natBE X)).toNat = X := by
  subst hw hX
  rw [BitVec.toNat_ofNat, ← natBE_bytesBE, bytesBE_natBE, bytesBE_natBE]

/-- Reading `BE_q` of a word gives the word back (R10, R120). -/
theorem ofNat_natBE_bytesBE (hw : w = 8 * q) (x : BitVec w) :
    BitVec.ofNat w (natBE (bytesBE q x.toNat)) = x := by
  rw [natBE_bytesBE, ← hw, Nat.mod_eq_of_lt x.isLt, BitVec.ofNat_toNat, BitVec.setWidth_eq]

/-- A block of sixteen runs of `q` bytes decodes run by run (R120). -/
theorem decodeBlock_eq_map_chunks (hw : w = 8 * q) (hq : 0 < q) {block : List Byte}
    (hlen : block.length = 16 * q) :
    decodeBlock w block = (chunks q block).map fun X => BitVec.ofNat w (natBE X) := by
  have hwidth : w / 8 = q := by omega
  rw [chunks, hlen, Nat.mul_div_cancel _ hq, List.map_map, ← hwidth]
  rfl

/-- Decoding loses nothing of the block: its bytes are those of the words in order (R121). -/
theorem flatMap_bytesBE_decodeBlock (hw : w = 8 * q) (hq : 0 < q) {block : List Byte}
    (hlen : block.length = 16 * q) :
    (decodeBlock w block).flatMap (fun x => bytesBE q x.toNat) = block := by
  have hword (X) (hX : X ∈ chunks q block) : bytesBE q (BitVec.ofNat w (natBE X)).toNat = X :=
    bytesBE_ofNat_natBE hw (length_of_mem_chunks hX)
  rw [decodeBlock_eq_map_chunks hw hq hlen, List.flatMap_map, List.flatMap_congr hword,
    List.flatMap_id', flatten_chunks, hlen, Nat.mul_div_cancel _ hq, ← hlen, List.take_length]

/-- Any sixteen words are the decoding of a block, that of their bytes in order (R121). -/
theorem decodeBlock_flatMap_bytesBE (hw : w = 8 * q) (hq : 0 < q) {m : List (BitVec w)}
    (hm : m.length = 16) : decodeBlock w (m.flatMap fun x => bytesBE q x.toNat) = m := by
  have hlen : (m.flatMap fun x => bytesBE q x.toNat).length = 16 * q := by
    simp [List.length_flatMap, ← hm]
  have hruns : ∀ X ∈ m.map fun x => bytesBE q x.toNat, X.length = q := by
    simp
  rw [decodeBlock_eq_map_chunks hw hq hlen, List.flatMap_def, chunks_flatten hq hruns,
    List.map_map]
  exact List.map_id'' (ofNat_natBE_bytesBE hw) m

/-- Settles O45: on each track a block is sixteen runs of `q` bytes, and `be` and `BE_q` invert each
other run by run. -/
theorem blockDecoderIsABijection : Obligations.BlockDecoderIsABijection := by
  unfold Obligations.BlockDecoderIsABijection
  exact ⟨fun block hlen => ⟨decodeBlock_length 32 block,
      flatMap_bytesBE_decodeBlock (q := 4) rfl (by decide) hlen⟩,
    fun block hlen => ⟨decodeBlock_length 64 block,
      flatMap_bytesBE_decodeBlock (q := 8) rfl (by decide) hlen⟩,
    fun _ hm => decodeBlock_flatMap_bytesBE (q := 4) rfl (by decide) hm,
    fun _ hm => decodeBlock_flatMap_bytesBE (q := 8) rfl (by decide) hm⟩

end Sys2Proof.Machine
end

section
/-!
THEOREMS. The Schedule Expander (R130 to R134 of spec/42_schedule_expander.md) and the rotations of
the Compressor (R142 to R145 of spec/43_compressor.md): the schedule as a list that keeps its words
and its recurrence while it grows, and `ROTR` as BitVec's own rotation.
-/

namespace Sys2Proof.Machine

variable {w : Nat}

/-! ### The recurrence -/

/-- The sum R130 gives for `W[i]`, on the words of `ws`. -/
def recurrenceSum (p : TrackParams w) (ws : List (BitVec w)) (i : Nat) : BitVec w :=
  wordAt ws (i - 16) + s0 p (wordAt ws (i - 15)) + wordAt ws (i - 7) + s1 p (wordAt ws (i - 2))

/-- Every word of `ws` from index 16 on is the sum of R130. -/
def FollowsRecurrence (p : TrackParams w) (ws : List (BitVec w)) : Prop :=
  ∀ i, 16 ≤ i → i < ws.length → wordAt ws i = recurrenceSum p ws i

theorem expandStep_eq_append (p : TrackParams w) (ws : List (BitVec w)) :
    expandStep p ws = ws ++ [recurrenceSum p ws ws.length] := rfl

theorem wordAt_append_left {xs : List (BitVec w)} (ys : List (BitVec w)) {i : Nat}
    (h : i < xs.length) : wordAt (xs ++ ys) i = wordAt xs i :=
  List.getD_append _ _ _ _ h

theorem wordAt_append_length (xs : List (BitVec w)) (y : BitVec w) :
    wordAt (xs ++ [y]) xs.length = y := by
  simp [wordAt]

/-- The sum reads earlier words only, so words appended from index `i` on leave it as it is. -/
theorem recurrenceSum_append_left (p : TrackParams w) {xs : List (BitVec w)}
    (ys : List (BitVec w)) {i : Nat} (h16 : 16 ≤ i) (hi : i ≤ xs.length) :
    recurrenceSum p (xs ++ ys) i = recurrenceSum p xs i := by
  simp (disch := omega) only [recurrenceSum, wordAt_append_left]

theorem FollowsRecurrence.of_length_le (p : TrackParams w) {ws : List (BitVec w)}
    (h : ws.length ≤ 16) : FollowsRecurrence p ws :=
  fun i _ _ => by omega

theorem FollowsRecurrence.expandStep {p : TrackParams w} {ws : List (BitVec w)}
    (h : FollowsRecurrence p ws) : FollowsRecurrence p (expandStep p ws) := by
  intro i h16 hi
  rw [expandStep_eq_append] at hi ⊢
  rw [List.length_append, List.length_singleton] at hi
  rw [recurrenceSum_append_left p _ h16 (by omega)]
  rcases Nat.lt_succ_iff_lt_or_eq.mp hi with hlt | rfl
  · rw [wordAt_append_left _ hlt, h i h16 hlt]
  · rw [wordAt_append_length]

theorem FollowsRecurrence.expandBy {p : TrackParams w} (n : Nat) {ws : List (BitVec w)}
    (h : FollowsRecurrence p ws) : FollowsRecurrence p (expandBy p n ws) := by
  induction n generalizing ws with
  | zero => exact h
  | succ n ih => exact ih h.expandStep

theorem expandBy_getElem?_of_lt (p : TrackParams w) (n : Nat) {ws : List (BitVec w)} {i : Nat}
    (hi : i < ws.length) : (expandBy p n ws)[i]? = ws[i]? := by
  induction n generalizing ws with
  | zero => rfl
  | succ n ih =>
    have hstep : i < (expandStep p ws).length := by
      rw [expandStep_eq_append, List.length_append]
      omega
    rw [expandBy, ih hstep, expandStep_eq_append, List.getElem?_append_left hi]

/-! ### The schedule of a block -/

theorem expand_length (p : TrackParams w) (m : List (BitVec w)) :
    (expand p m).length = m.length + (p.roundCount - 16) :=
  expandBy_length p _ m

theorem expand_followsRecurrence (p : TrackParams w) {m : List (BitVec w)} (hm : m.length = 16) :
    FollowsRecurrence p (expand p m) :=
  (FollowsRecurrence.of_length_le p hm.le).expandBy _

/-- R130 on any track of at least sixteen rounds. -/
theorem expand_schedule (p : TrackParams w) (hp : 16 ≤ p.roundCount) {m : List (BitVec w)}
    (hm : m.length = 16) :
    (expand p m).length = p.roundCount ∧ (∀ i, i < 16 → (expand p m)[i]? = m[i]?) ∧
      ∀ i, 16 ≤ i → i < p.roundCount → wordAt (expand p m) i = recurrenceSum p (expand p m) i := by
  have hlen : (expand p m).length = p.roundCount := by rw [expand_length]; omega
  exact ⟨hlen, fun i hi => expandBy_getElem?_of_lt p _ (by omega),
    fun i h16 hi => expand_followsRecurrence p hm i h16 (by omega)⟩

/-! ### The all-zero block -/

@[simp] theorem s0_zero (p : TrackParams w) : s0 p 0#w = 0#w := by simp [s0, rotr, shr]

@[simp] theorem s1_zero (p : TrackParams w) : s1 p 0#w = 0#w := by simp [s1, rotr, shr]

@[simp] theorem wordAt_replicate_zero (n i : Nat) : wordAt (List.replicate n 0#w) i = 0#w := by
  by_cases h : i < n <;> simp [wordAt, h]

theorem expandStep_replicate_zero (p : TrackParams w) (n : Nat) :
    expandStep p (List.replicate n 0#w) = List.replicate (n + 1) 0#w := by
  simp [expandStep, List.replicate_succ']

theorem expandBy_replicate_zero (p : TrackParams w) (n k : Nat) :
    expandBy p n (List.replicate k 0#w) = List.replicate (k + n) 0#w := by
  induction n generalizing k with
  | zero => rfl
  | succ n ih => rw [expandBy, expandStep_replicate_zero, ih, Nat.add_right_comm, Nat.add_assoc]

/-- Settles O46: expansion only appends, and each appended word is the sum of R130 of words that
stand already. -/
theorem scheduleFollowsItsRecurrence : Obligations.ScheduleFollowsItsRecurrence := by
  unfold Obligations.ScheduleFollowsItsRecurrence
  exact ⟨fun _ hm => expand_schedule shortTrack (by decide) hm,
    fun _ hm => expand_schedule longTrack (by decide) hm,
    expandBy_replicate_zero shortTrack 48 16, expandBy_replicate_zero longTrack 64 16⟩

/-! ### The mixing functions -/

/-- `ROTR` is BitVec's rotation at the amounts R9 allows. -/
theorem rotr_eq_rotateRight (x : BitVec w) {n : Nat} (h : n < w) : rotr x n = x.rotateRight n :=
  (BitVec.rotateRight_eq_rotateRightAux_of_lt h).symm

theorem s0_eq_rotateRight (p : TrackParams w) (h1 : p.r1 < w) (h2 : p.r2 < w) (x : BitVec w) :
    s0 p x = x.rotateRight p.r1 ^^^ x.rotateRight p.r2 ^^^ (x >>> p.r3) := by
  rw [s0, rotr_eq_rotateRight x h1, rotr_eq_rotateRight x h2, shr]

theorem s1_eq_rotateRight (p : TrackParams w) (h4 : p.r4 < w) (h5 : p.r5 < w) (x : BitVec w) :
    s1 p x = x.rotateRight p.r4 ^^^ x.rotateRight p.r5 ^^^ (x >>> p.r6) := by
  rw [s1, rotr_eq_rotateRight x h4, rotr_eq_rotateRight x h5, shr]

theorem bigSigma1_eq_rotateRight (p : TrackParams w) (h1 : p.x1 < w) (h2 : p.x2 < w)
    (h3 : p.x3 < w) (x : BitVec w) :
    bigSigma1 p x = x.rotateRight p.x1 ^^^ x.rotateRight p.x2 ^^^ x.rotateRight p.x3 := by
  rw [bigSigma1, rotr_eq_rotateRight x h1, rotr_eq_rotateRight x h2, rotr_eq_rotateRight x h3]

theorem bigSigma0_eq_rotateRight (p : TrackParams w) (h1 : p.y1 < w) (h2 : p.y2 < w)
    (h3 : p.y3 < w) (x : BitVec w) :
    bigSigma0 p x = x.rotateRight p.y1 ^^^ x.rotateRight p.y2 ^^^ x.rotateRight p.y3 := by
  rw [bigSigma0, rotr_eq_rotateRight x h1, rotr_eq_rotateRight x h2, rotr_eq_rotateRight x h3]

/-- Settles O47: every amount of both tracks is below the width, so each `ROTR` is a rotation; the
printed examples are closed. -/
theorem mixingFunctionsHaveTheirAmounts : Obligations.MixingFunctionsHaveTheirAmounts := by
  unfold Obligations.MixingFunctionsHaveTheirAmounts
  refine ⟨s0_eq_rotateRight shortTrack (by decide) (by decide),
    s1_eq_rotateRight shortTrack (by decide) (by decide),
    s0_eq_rotateRight longTrack (by decide) (by decide),
    s1_eq_rotateRight longTrack (by decide) (by decide),
    bigSigma1_eq_rotateRight shortTrack (by decide) (by decide) (by decide),
    bigSigma1_eq_rotateRight longTrack (by decide) (by decide) (by decide),
    bigSigma0_eq_rotateRight shortTrack (by decide) (by decide) (by decide),
    bigSigma0_eq_rotateRight longTrack (by decide) (by decide) (by decide), ?_⟩
  decide

end Sys2Proof.Machine
end

section
/-!
THEOREMS. The Compressor (spec/43_compressor.md): `Ch` and `Maj` bit by bit (R146, R147), one round
from its two sums (R148 to R150), and the tables of round constants (R153, R154).
-/

namespace Sys2Proof.Machine

variable {w : Nat}

/-! ### Ch and Maj -/

/-- R146: bit `i` of `e` chooses between the bits of `f` and `g`. At `i ≥ w` all three are 0. -/
theorem getLsbD_ch (e f g : BitVec w) (i : Nat) :
    (ch e f g).getLsbD i = if e.getLsbD i then f.getLsbD i else g.getLsbD i := by
  by_cases hi : i < w
  · simp only [ch, BitVec.getLsbD_xor, BitVec.getLsbD_and, BitVec.getLsbD_not, hi, decide_true]
    cases e.getLsbD i <;> simp
  · simp [BitVec.getLsbD_of_ge, Nat.le_of_not_lt hi]

/-- R147: bit `i` is 1 where at least two of the three bits are. -/
theorem getLsbD_maj (a b c : BitVec w) (i : Nat) :
    (maj a b c).getLsbD i = decide (2 ≤ (a.getLsbD i).toNat + (b.getLsbD i).toNat
      + (c.getLsbD i).toNat) := by
  simp only [maj, BitVec.getLsbD_xor, BitVec.getLsbD_and]
  cases a.getLsbD i <;> cases b.getLsbD i <;> cases c.getLsbD i <;> rfl

/-- The two terms of `Ch` never both have a 1 in the same bit (R146). -/
theorem ch_eq_or (e f g : BitVec w) : ch e f g = (e &&& f) ||| (~~~e &&& g) := by
  ext i hi
  simp only [ch, BitVec.getElem_xor, BitVec.getElem_or, BitVec.getElem_and, BitVec.getElem_not]
  cases e[i] <;> simp

@[simp] theorem ch_zero (f g : BitVec w) : ch 0#w f g = g := by simp [ch]

@[simp] theorem ch_allOnes (f g : BitVec w) : ch (BitVec.allOnes w) f g = f := by simp [ch]

@[simp] theorem maj_self_left (x y : BitVec w) : maj x x y = x := by
  simp [maj, BitVec.and_comm x y]

@[simp] theorem maj_zero_allOnes (y : BitVec w) : maj 0#w (BitVec.allOnes w) y = y := by
  simp [maj]

/-- Settles O48: bit by bit, by the values of the input bits; the printed words are closed. -/
theorem chooseAndMajorityBitwise : Obligations.ChooseAndMajorityBitwise := by
  unfold Obligations.ChooseAndMajorityBitwise
  exact ⟨fun _ => getLsbD_ch, fun _ => ch_eq_or, fun _ => getLsbD_maj,
    fun f g => ⟨ch_zero f g, ch_allOnes f g⟩,
    fun x y => ⟨maj_self_left x y, maj_zero_allOnes y⟩, by decide, by decide⟩

/-! ### One round -/

/-- R150: the two sums of a round, once known, give its eight registers. -/
theorem round_of_sums {p : TrackParams w} {r : Words8 w} {k x t1 t2 : BitVec w}
    (h1 : roundT1 p r k x = t1) (h2 : roundT2 p r = t2) :
    round p r (k, x) = ⟨t1 + t2, r.a, r.b, r.c, r.d + t1, r.e, r.f, r.g⟩ := by
  rw [← h1, ← h2]
  rfl

/-- R148 on the short track, round 0 of "abc". -/
theorem roundT1_shortTrack_abc :
    roundT1 shortTrack iv256 0x428a2f98#32 0x61626380#32 = 0x54da50e8#32 := by decide

/-- R149 on the short track, round 0 of every message. -/
theorem roundT2_shortTrack_iv256 : roundT2 shortTrack iv256 = 0x08909ae5#32 := by decide

/-- R148 on the long track, round 0 of "abc". -/
theorem roundT1_longTrack_abc :
    roundT1 longTrack iv512 0x428a2f98d728ae22#64 0x6162638000000000#64 =
      0xb37b0cfa1b97e8a0#64 := by
  decide

/-- R149 on the long track, round 0 of every message that starts from IV512. -/
theorem roundT2_longTrack_iv512 : roundT2 longTrack iv512 = 0x4334c1bea164f555#64 := by decide

/-- Settles O49: the sums are closed, and the registers follow from them by the shift of R150. -/
theorem roundZeroOfAbc : Obligations.RoundZeroOfAbc := by
  unfold Obligations.RoundZeroOfAbc
  exact ⟨roundT1_shortTrack_abc, roundT2_shortTrack_iv256,
    round_of_sums roundT1_shortTrack_abc roundT2_shortTrack_iv256,
    roundT1_longTrack_abc, roundT2_longTrack_iv512,
    round_of_sums roundT1_longTrack_abc roundT2_longTrack_iv512⟩

/-! ### The round constants -/

/-- Settles O51: for each prime the test compares two cubes with a multiple of the prime, so both
tables are checked by evaluation, word by word, as are the high halves. -/
theorem roundConstantsAreCubeRoots : Obligations.RoundConstantsAreCubeRoots := by
  unfold Obligations.RoundConstantsAreCubeRoots
  exact ⟨rfl, rfl, rfl, by decide, by decide, by decide⟩

end Sys2Proof.Machine
end

section
/-!
THEOREMS. The Variant Formatter's commands and tables (spec/44_formatter.md): READ by its phase and
index (R167), START from any phase (R166), and the initial values (R163 to R165).
-/

namespace Sys2Proof.Machine

variable {s : State} {v : Variant}

/-! ### READ -/

/-- READ with `ERR = 0` outside DONE is refused before its index is looked at (R167, R192). -/
theorem exec_read_of_not_done (i : BitVec 6) (herr : s.err = false) (hphase : s.phase ≠ .done) :
    exec (.read i) s = .next (recordError .badPhase s) := by
  show unlessLocked (performRead (digestIndex i)) s = _
  rw [unlessLocked_open herr, performRead, if_neg hphase, raiseError_eq]

/-- READ with `ERR = 0` in DONE is the Formatter's read for the variant of the session (R167). -/
theorem exec_read_of_done (i : BitVec 6) (herr : s.err = false) (hphase : s.phase = .done)
    (hvar : s.var = .sel v) : exec (.read i) s = readDigest i.toNat s v := by
  show unlessLocked (performRead (digestIndex i)) s = _
  rw [unlessLocked_open herr, performRead, if_pos hphase, withVariant_sel hvar, digestIndex]

theorem readDigest_of_le {i : Nat} (hi : digestBytes v ≤ i) :
    readDigest i s v = .next (recordError .badIndex s) := by
  rw [readDigest, if_pos hi, raiseError_eq]

theorem readDigest_of_lt {i : Nat} {b : Byte} (hi : i < digestBytes v)
    (hb : Memory.read s.digest i = some b) : readDigest i s v = .next (respond b s) := by
  rw [readDigest, if_neg (Nat.not_le.2 hi), hb]

/-- Settles O19: READ is decided by ERR, then by the phase, then by the index. -/
theorem readAnswersADigestByte : Obligations.ReadAnswersADigestByte := by
  unfold Obligations.ReadAnswersADigestByte
  refine ⟨decode_encode_read, fun s i herr => unlessLocked_locked herr,
    fun s i herr => ⟨?_, ?_, ?_⟩⟩
  · intro v b hphase hvar hi hb
    exact (exec_read_of_done i herr hphase hvar).trans (readDigest_of_lt hi hb)
  · exact exec_read_of_not_done i herr
  · intro v hphase hvar hi
    exact (exec_read_of_done i herr hphase hvar).trans (readDigest_of_le hi)

/-! ### START -/

theorem exec_startOf_of_locked (v : Variant) (herr : s.err = true) :
    exec (startOf v) s = .next s := by
  cases v <;> exact unlessLocked_locked herr

/-- R71, R72: the word of START is its opcode and the code of its variant. -/
theorem encode_startOf (v : Variant) :
    encode (startOf v) = 0x2000#16 + (varCode (.sel v)).setWidth 16 := by
  cases v <;> rfl

/-- Settles O16: each of the three commands is the START of its variant, which opens a session in
whatever phase it finds. -/
theorem startOpensASession : Obligations.StartOpensASession := by
  unfold Obligations.StartOpensASession
  exact ⟨fun v => ⟨encode_startOf v, decode_encode_startOf v⟩, by decide,
    fun s v herr => exec_startOf_of_locked v herr,
    fun s herr => ⟨exec_startOf_of_open .sha256 herr, exec_startOf_of_open .sha384 herr,
      exec_startOf_of_open .sha512 herr⟩⟩

/-! ### The initial values -/

/-- Settles O50: for each prime the test compares two squares with a multiple of the prime, so the
three tables are checked by evaluation, word by word, as are the high halves. -/
theorem initialValuesAreSquareRoots : Obligations.InitialValuesAreSquareRoots := by
  unfold Obligations.InitialValuesAreSquareRoots
  exact ⟨by decide, by decide, by decide, by decide⟩

end Sys2Proof.Machine
end

section
/-!
THEOREMS. Completion (R109, R190 of spec/60_exceptions.md, R182): under the invariant every command
answers a next state, since ABSORB and FINISH read bytes of BUF below `fill` or that they have just
written, and READ a byte of the digest.
-/

namespace Sys2Proof.Machine

variable {s : State}

/-- A session that has a phase other than IDLE has a variant (R38 (1)). -/
theorem State.Inv.var_ne_none (h : State.Inv s) (hphase : s.phase ≠ .idle) : s.var ≠ .none :=
  fun hvar => hphase (h.idle_iff.2 hvar)

/-- With the byte that completes the block, every byte of it holds a value (R109). -/
theorem State.Inv.write_held (h : State.Inv s) {v : Variant} (hphase : s.phase = .absorbing)
    (hvar : s.var = .sel v) (hfill : fill v s.len + 1 = blockBytes v) (b : Byte) {i : Nat}
    (hi : i < blockBytes v) :
    (Memory.read (Memory.write s.buf (fill v s.len) b) i).isSome = true := by
  rw [Memory.read_write]
  split
  · rfl
  · exact h.buf_held hphase v hvar i (by omega)

theorem exec_startOf_completes (v : Variant) (s : State) : ∃ t, exec (startOf v) s = .next t := by
  rcases exec_start_cases (v := v) (s := s) rfl with ⟨-, ho⟩ | ⟨-, ho⟩ <;> exact ⟨_, ho⟩

theorem State.Inv.exec_absorb (h : State.Inv s) (b : Byte) : ∃ t, exec (.absorb b) s = .next t := by
  rcases exec_absorb_cases (s := s) (b := b) rfl with ⟨-, ho⟩ | ⟨-, -, ho⟩ |
    ⟨-, hphase, hvar, -⟩ | ⟨v, -, -, -, -, ho⟩ | ⟨v, -, hphase, hvar, hfill, ho⟩
  · exact ⟨_, ho⟩
  · exact ⟨_, ho⟩
  · exact absurd hvar (h.var_ne_none (by simp [hphase]))
  · exact ⟨_, ho⟩
  · obtain ⟨_, ws, r, -, hcall⟩ := processBlock_of_held (s := Machine.storeByte (fill v s.len) b s)
      fun i hi => h.write_held hphase hvar hfill b hi
    exact ⟨_, ho.trans (outcomeOf_next.2 hcall)⟩

/-- FINISH finds the message bytes of the incomplete block in BUF (R109). -/
theorem State.Inv.exec_finish_of_open (h : State.Inv s) {v : Variant} (herr : s.err = false)
    (hphase : s.phase = .absorbing) (hvar : s.var = .sel v) : ∃ t, exec .finish s = .next t := by
  obtain ⟨pre, hread, hlen⟩ := Memory.readRange_of_held s.buf 0 (fill v s.len) fun i hi => by
    simpa using h.buf_held hphase v hvar i hi
  have hbegins : Memory.Begins s.buf pre := fun i hi => by
    simpa using ((Memory.readRange_ok_iff _ _ _ _).1 hread).2 i (hlen ▸ hi)
  obtain ⟨_, -, hexec⟩ := exec_finish_of_begins hbegins hphase hvar herr hlen
  exact ⟨_, hexec⟩

theorem State.Inv.exec_finish (h : State.Inv s) : ∃ t, exec .finish s = .next t := by
  rcases exec_finish_cases (s := s) rfl with ⟨-, ho⟩ | ⟨-, -, ho⟩ | ⟨-, hphase, hvar, -⟩ |
    ⟨v, herr, hphase, hvar, -⟩ | ⟨v, herr, hphase, hvar, -⟩
  · exact ⟨_, ho⟩
  · exact ⟨_, ho⟩
  · exact absurd hvar (h.var_ne_none (by simp [hphase]))
  · exact h.exec_finish_of_open herr hphase hvar
  · exact h.exec_finish_of_open herr hphase hvar

theorem State.Inv.exec_read (h : State.Inv s) (k : BitVec 6) : ∃ t, exec (.read k) s = .next t := by
  rcases exec_read_cases (s := s) (i := k) rfl with ⟨-, ho⟩ | ⟨-, -, ho⟩ | ⟨-, hphase, hvar, -⟩ |
    ⟨v, -, -, -, -, ho⟩ | ⟨v, b, -, -, -, -, -, ho⟩ | ⟨v, -, hphase, hvar, hk, hnone, -⟩
  · exact ⟨_, ho⟩
  · exact ⟨_, ho⟩
  · exact absurd hvar (h.var_ne_none (by simp [hphase]))
  · exact ⟨_, ho⟩
  · exact ⟨_, ho⟩
  · have hheld := (h.digest_held hphase v hvar k.toNat).2 hk
    simp [hnone] at hheld

/-- Under the invariant every command completes (R190). -/
theorem State.Inv.exec_completes (h : State.Inv s) (i : Instr) : ∃ t, exec i s = .next t := by
  cases i with
  | reset => exact ⟨_, exec_reset s⟩
  | startSha256 => exact exec_startOf_completes .sha256 s
  | startSha384 => exact exec_startOf_completes .sha384 s
  | startSha512 => exact exec_startOf_completes .sha512 s
  | absorb b => exact h.exec_absorb b
  | finish => exact h.exec_finish
  | read k => exact h.exec_read k
  | status => exact ⟨_, exec_status s⟩

/-- Settles O35: a wait, `rst` and a word that is no command complete in every state, and a command
does under the invariant. -/
theorem everyStepCompletesUnderTheInvariant : Obligations.EveryStepCompletesUnderTheInvariant := by
  unfold Obligations.EveryStepCompletesUnderTheInvariant
  intro s h
  rcases step_cases (s := s) rfl with ⟨-, ho⟩ | ⟨rest, -, ho⟩ | ⟨w, rest, i, -, -, hexec⟩ |
    ⟨w, rest, c, -, -, hexec⟩
  · exact ⟨_, ho⟩
  · exact ⟨_, ho⟩
  · rw [← hexec]
    exact (h.with_port rest).exec_completes i
  · rcases execIllegal_cases hexec with ⟨-, ho⟩ | ⟨-, ho⟩ <;> exact ⟨_, ho⟩

/-! ### The step, STATUS and RESET -/

/-- Settles O6, by `step_of_decode`. -/
theorem stepRunsTheDecodedCommand : Obligations.StepRunsTheDecodedCommand := by
  unfold Obligations.StepRunsTheDecodedCommand
  intro s w rest i hport hdec
  exact step_of_decode hport hdec

/-- The STATUS view as a sum of its fields, which do not overlap (R24). -/
theorem statusByte_toNat (s : State) :
    (statusByte s).toNat = s.errCode.toNat * 32 + (if s.err then 16 else 0)
      + (varCode s.var).toNat * 4 + (phaseCode s.phase).toNat := by
  have hfields : ∀ (c : BitVec 3) (e : Bool) (v p : BitVec 2),
      ((c.setWidth 8 <<< 5) ||| ((errBit e).setWidth 8 <<< 4) ||| (v.setWidth 8 <<< 2)
        ||| p.setWidth 8 : Byte).toNat =
      c.toNat * 32 + (if e then 16 else 0) + v.toNat * 4 + p.toNat := by decide
  exact hfields _ _ _ _

/-- Settles O20: STATUS is a response of the view, whose value is the sum of its fields. -/
theorem statusAnswersTheView : Obligations.StatusAnswersTheView := by
  unfold Obligations.StatusAnswersTheView
  exact ⟨by decide, by decide, fun s => ⟨statusByte s, exec_status s, statusByte_toNat s⟩⟩

/-- Settles O14: RESET is the reset of the core, field by field. -/
theorem resetCommandCompletes : Obligations.ResetCommandCompletes := by
  unfold Obligations.ResetCommandCompletes
  intro s
  exact ⟨_, exec_reset s, resetCore_phase s, resetCore_var s, resetCore_err s, resetCore_errCode s,
    fun _ => rfl, fun _ => rfl, resetCore_port s, resetCore_out s⟩

end Sys2Proof.Machine
end

section
/-!
THEOREMS. Commands and the ports (R59, R76): no command looks at the words that wait or at the
responses given. So what a script of commands does (R83) is said once, for every state of the ports,
and scripts are put together from their commands.
-/

namespace Sys2Proof.Machine

variable {s t u : State} {v : Variant} {p : List PortInput} {o : List Byte}

/-! ### Commands in another state of the ports -/

/-- The same core with other words waiting and other responses given (R59, R76). -/
def State.withPorts (p : List PortInput) (o : List Byte) (s : State) : State :=
  { s with port := p, out := o }

/-- What commutes with `withPorts` in its parts does so in sequence. -/
theorem bind_map_withPorts {x : Except Fault State} {f : State → Except Fault State}
    (hf : ∀ t, f (t.withPorts p o) = (f t).map (State.withPorts p o)) :
    (x.map (State.withPorts p o)).bind f = (x.bind f).map (State.withPorts p o) := by
  cases x with
  | error e => rfl
  | ok t => exact hf t

theorem outcomeOf_map_withPorts {x : Except Fault State} (h : outcomeOf x = .next t) :
    outcomeOf (x.map (State.withPorts p o)) = .next (t.withPorts p o) := by
  obtain rfl := outcomeOf_next.1 h
  rfl

/-- ProcessBlock neither reads nor writes the port and the responses (R180). -/
theorem processBlock_withPorts (v : Variant) (s : State) :
    processBlock v (s.withPorts p o) = (processBlock v s).map (State.withPorts p o) := by
  have htrack {w : Nat} (q : TrackParams w) :
      processOn q (s.withPorts p o) = (processOn q s).map (State.withPorts p o) := by
    simp only [processOn, State.withPorts]
    split <;> rfl
  cases v <;> exact htrack _

theorem processBlock_setBuf_withPorts (v : Variant) (m : Memory) (s : State) :
    processBlock v (setBuf m (s.withPorts p o)) =
      (processBlock v (setBuf m s)).map (State.withPorts p o) :=
  processBlock_withPorts v (setBuf m s)

theorem sealMessage_setBuf_withPorts (v : Variant) (m : Memory) (s : State) :
    sealMessage v (setBuf m (s.withPorts p o)) =
      (sealMessage v (setBuf m s)).map (State.withPorts p o) := by
  rw [sealMessage_eq_bind, sealMessage_eq_bind, setBuf_setBuf, setBuf_setBuf,
    processBlock_setBuf_withPorts]
  exact bind_map_withPorts fun c => rfl

theorem padTwoBlocks_withPorts (v : Variant) (f : Nat) (s : State) :
    padTwoBlocks v f (s.withPorts p o) = (padTwoBlocks v f s).map (State.withPorts p o) := by
  rw [padTwoBlocks_eq_bind, padTwoBlocks_eq_bind, processBlock_setBuf_withPorts]
  exact bind_map_withPorts fun c => sealMessage_setBuf_withPorts v _ c

section
variable (hphase : s.phase = .absorbing) (hvar : s.var = .sel v) (herr : s.err = false)
include hphase hvar herr

/-- An accepted ABSORB, with other words waiting and other responses given. -/
theorem exec_absorb_withPorts {b : Byte} (h : exec (.absorb b) s = .next t) :
    exec (.absorb b) (s.withPorts p o) = .next (t.withPorts p o) := by
  rw [exec_absorb_of_open b hphase hvar herr, absorbByte] at h
  rw [exec_absorb_of_open (s := s.withPorts p o) b hphase hvar herr]
  split at h
  · rename_i hfull
    refine (if_pos hfull).trans ?_
    show outcomeOf (processBlock v ((storeByte (fill v s.len) b s).withPorts p o)) = _
    rw [processBlock_withPorts, outcomeOf_map_withPorts h]
  · rename_i hfull
    cases h
    exact if_neg hfull

/-- FINISH with `ERR = 0` in an open session is the Padder's end of the message (R107). -/
theorem exec_finish_of_open : exec .finish s = finishMessage s v := by
  show unlessLocked performFinish s = _
  rw [unlessLocked_open herr, performFinish, if_pos hphase, withVariant_sel hvar]

/-- An accepted FINISH, with other words waiting and other responses given. -/
theorem exec_finish_withPorts (h : exec .finish s = .next t) :
    exec .finish (s.withPorts p o) = .next (t.withPorts p o) := by
  rw [exec_finish_of_open hphase hvar herr, finishMessage] at h
  rw [exec_finish_of_open (s := s.withPorts p o) hphase hvar herr]
  split at h
  · rename_i hfit
    refine (if_pos hfit).trans ?_
    show outcomeOf (padTwoBlocks v (fill v s.len) (s.withPorts p o)) = _
    rw [padTwoBlocks_withPorts, outcomeOf_map_withPorts h]
  · rename_i hfit
    refine (if_neg hfit).trans ?_
    show outcomeOf (sealMessage v (setBuf _ (s.withPorts p o))) = _
    rw [sealMessage_setBuf_withPorts]
    exact outcomeOf_map_withPorts h

end

/-! ### Scripts -/

/-- The commands `is` lead the core from `s` to `t` with the responses `r`, whatever waits behind
them and whatever was responded before. -/
def Performs (is : List Instr) (s t : State) (r : List Byte) : Prop :=
  ∀ p o, runSteps is.length (s.withPorts (wordsOf is ++ p) o) = .next (t.withPorts p (o ++ r))

theorem Performs.nil (s : State) : Performs [] s s [] := fun p o => by
  rw [List.append_nil]
  rfl

/-- A command, by its meaning in every state of the ports. -/
theorem performs_of_exec {i : Instr} {r : List Byte}
    (h : ∀ p o, exec i (s.withPorts p o) = .next (t.withPorts p (o ++ r))) :
    Performs [i] s t r := fun p o => by
  have hstep : step (s.withPorts (wordsOf [i] ++ p) o) = .next (t.withPorts p (o ++ r)) :=
    (step_of_decode rfl (decode_encode i)).trans (h p o)
  rw [List.length_singleton, runSteps_succ hstep]
  rfl

theorem runSteps_add {m n : Nat} (h : runSteps m s = .next t) :
    runSteps (m + n) s = runSteps n t := by
  induction m generalizing s with
  | zero =>
    cases h
    rw [Nat.zero_add]
  | succ m ih =>
    rw [Nat.succ_add]
    cases hstep : step s with
    | next s' =>
      rw [runSteps_succ hstep] at h ⊢
      exact ih h
    | fault e => simp [runSteps, Host.Core.run, core, hstep] at h
    | refused e => simp [runSteps, Host.Core.run, core, hstep] at h

theorem Performs.append {is js : List Instr} {r q : List Byte} (h : Performs is s t r)
    (h' : Performs js t u q) : Performs (is ++ js) s u (r ++ q) := fun p o => by
  have hwords : wordsOf (is ++ js) ++ p = wordsOf is ++ (wordsOf js ++ p) := by
    simp [wordsOf]
  rw [List.length_append, hwords, runSteps_add (h _ o), h' p, List.append_assoc]

theorem Performs.cons {i : Instr} {is : List Instr} {r q : List Byte} (h : Performs [i] s t r)
    (h' : Performs is t u q) : Performs (i :: is) s u (r ++ q) := h.append h'

/-- Commands that only respond. -/
theorem performs_of_forall {is : List Instr} {r : Instr → List Byte}
    (h : ∀ i ∈ is, Performs [i] s s (r i)) : Performs is s s (is.flatMap r) := by
  induction is with
  | nil => exact .nil s
  | cons i is ih =>
    rw [List.flatMap_cons]
    exact (h i List.mem_cons_self).cons (ih fun j hj => h j (List.mem_cons_of_mem i hj))

/-- The run of a script that is all the host has handed over. -/
theorem Performs.runSteps {is : List Instr} {r : List Byte} (h : Performs is s t r) {n : Nat}
    (hn : is.length = n) (o : List Byte) :
    runSteps n (s.withPorts (wordsOf is) o) = .next (t.withPorts [] (o ++ r)) := by
  simpa [hn] using h [] o

/-! ### Single commands -/

theorem performs_status (s : State) : Performs [.status] s s [statusByte s] :=
  performs_of_exec fun _ _ => rfl

theorem performs_startOf (v : Variant) (herr : s.err = false) :
    Performs [startOf v] s (openSession v s) [] := performs_of_exec fun p o => by
  rw [exec_startOf_of_open (s := s.withPorts p o) v herr, List.append_nil]
  rfl

theorem performs_read_badPhase (k : BitVec 6) (herr : s.err = false) (hphase : s.phase ≠ .done) :
    Performs [.read k] s (recordError .badPhase s) [] := performs_of_exec fun p o => by
  rw [exec_read_of_not_done (s := s.withPorts p o) k herr hphase, List.append_nil]
  rfl

theorem performs_read_badIndex {k : BitVec 6} (herr : s.err = false) (hphase : s.phase = .done)
    (hvar : s.var = .sel v) (hk : digestBytes v ≤ k.toNat) :
    Performs [.read k] s (recordError .badIndex s) [] := performs_of_exec fun p o => by
  rw [exec_read_of_done (s := s.withPorts p o) k herr hphase hvar, readDigest_of_le hk,
    List.append_nil]
  rfl

/-- What a command responds where only STATUS does. -/
def statusResponse (s : State) (i : Instr) : List Byte :=
  if i = .status then [statusByte s] else []

theorem flatMap_statusResponse (s : State) (is : List Instr) :
    is.flatMap (statusResponse s) = List.replicate (is.count .status) (statusByte s) := by
  induction is with
  | nil => rfl
  | cons i is ih =>
    rw [List.flatMap_cons, ih, statusResponse, List.count_cons]
    by_cases hi : i = .status
    · simp [hi, List.replicate_succ]
    · simp [hi]

/-- The lockout: every command but RESET and STATUS is dropped (R194). -/
theorem performs_of_locked {i : Instr} (herr : s.err = true) (hi : i ≠ .reset) :
    Performs [i] s s (statusResponse s i) := by
  have hdropped (hexec : ∀ p o, exec i (s.withPorts p o) = .next (s.withPorts p o)) :
      Performs [i] s s [] := performs_of_exec fun p o => by rw [hexec, List.append_nil]
  cases i with
  | reset => exact absurd rfl hi
  | status => exact performs_status s
  | startSha256 => exact hdropped fun p o => exec_startOf_of_locked .sha256 herr
  | startSha384 => exact hdropped fun p o => exec_startOf_of_locked .sha384 herr
  | startSha512 => exact hdropped fun p o => exec_startOf_of_locked .sha512 herr
  | absorb b => exact hdropped fun p o => unlessLocked_locked herr
  | finish => exact hdropped fun p o => unlessLocked_locked herr
  | read k => exact hdropped fun p o => unlessLocked_locked herr

theorem performs_script_of_locked {is : List Instr} (herr : s.err = true) (his : .reset ∉ is) :
    Performs is s s (List.replicate (is.count .status) (statusByte s)) := by
  rw [← flatMap_statusResponse]
  exact performs_of_forall fun i hi => performs_of_locked herr (ne_of_mem_of_not_mem hi his)

end Sys2Proof.Machine
end

section
/-!
THEOREMS. Sessions (R185, R186 of spec/45_hash_system.md): what START, a message with STATUS
anywhere in it, and FINISH leave, and what the commands after them respond.
-/

namespace Sys2Proof.Machine

variable {s t d : State} {v : Variant} {m : List Byte}

/-! ### A message with STATUS in it -/

/-- ABSORB in an open session, whatever the ports hold; ERRCODE is kept. -/
theorem Absorbed.performs_absorb (h : Absorbed v m s) (b : Byte) :
    ∃ t, Performs [.absorb b] s t [] ∧ Absorbed v (m ++ [b]) t ∧ t.errCode = s.errCode := by
  obtain ⟨t, hexec, ht, -, -⟩ := h.exec_absorb b
  refine ⟨t, performs_of_exec fun p o => ?_, ht, ?_⟩
  · rw [List.append_nil, exec_absorb_withPorts h.phase h.var h.err hexec]
  · rcases exec_absorb_next hexec with ⟨-, rfl⟩ | ⟨-, hphase, -⟩ | ⟨v, -, -, -, -, rfl⟩ |
      ⟨v, ws, r, x, -, -, -, -, rfl⟩
    · rfl
    · exact absurd h.phase hphase
    · rfl
    · rfl

/-- The STATUS view of an open session is the same for every message. -/
theorem Absorbed.statusByte_eq (h : Absorbed v m s) :
    statusByte s = controlBits (.sel v) .absorbing + errorBits false s.errCode := by
  rw [statusByte_eq_add, h.phase, h.var, h.err]

theorem performs_statuses {is : List Instr} (h : ∀ i ∈ is, i = .status) :
    Performs is s s (List.replicate (is.count .status) (statusByte s)) := by
  rw [← flatMap_statusResponse]
  refine performs_of_forall fun i hi => ?_
  obtain rfl := h i hi
  exact performs_status s

/-- A message leads to one state, however many STATUS commands stand in it; each of them responds
the view of the open session. -/
theorem Absorbed.performs_interleaved (h : Absorbed v m s) (rest : List Byte) :
    ∃ t, Absorbed v (m ++ rest) t ∧ t.errCode = s.errCode ∧
      ∀ inner : List Instr, inner.filter (· ≠ .status) = absorbs rest →
        Performs inner s t (List.replicate (inner.count .status) (statusByte s)) := by
  induction rest generalizing m s with
  | nil =>
    refine ⟨s, by simpa using h, rfl, fun inner hinner => performs_statuses fun i hi => ?_⟩
    simpa using List.filter_eq_nil_iff.1 hinner i hi
  | cons b rest ih =>
    obtain ⟨t, hperforms, ht, hcode⟩ := h.performs_absorb b
    obtain ⟨u, hu, hcode', hrest⟩ := ih ht
    refine ⟨u, by simpa using hu, hcode'.trans hcode, fun inner hinner => ?_⟩
    obtain ⟨before, after, rfl, hbefore, -, hafter⟩ := List.filter_eq_cons_iff.1 hinner
    have hview : statusByte t = statusByte s := by rw [ht.statusByte_eq, h.statusByte_eq, hcode]
    have hstatuses := performs_statuses (s := s) fun i hi => by simpa using hbefore i hi
    have hrun := hstatuses.append (hperforms.cons (hrest after hafter))
    have hcount : (before ++ .absorb b :: after).count .status =
        before.count .status + after.count .status := by simp
    rwa [List.nil_append, hview, List.replicate_append_replicate, ← hcount] at hrun

/-! ### FINISH -/

/-- A finished session of `m`: DIGEST is `hash(m, v)` (R185). -/
structure Delivered (v : Variant) (m : List Byte) (d : State) : Prop where
  phase : d.phase = .done
  var : d.var = .sel v
  err : d.err = false
  digest : ∀ i, Memory.read d.digest i = (hashMessage v m)[i]?

/-- FINISH folds the final blocks into the hash state of the complete ones, so all blocks of
`pad` (R181). -/
theorem Absorbed.performs_finish (h : Absorbed v m s) :
    ∃ d, Performs [.finish] s d [] ∧ Delivered v m d ∧ d.errCode = s.errCode := by
  obtain ⟨c, hc, hexec⟩ :=
    exec_finish_of_begins h.buf h.phase h.var h.err h.fill_eq_length.symm
  refine ⟨storeDigest (formatDigest v c.hash) c, performs_of_exec fun p o => ?_, ?_⟩
  · rw [List.append_nil, exec_finish_withPorts h.phase h.var h.err hexec]
  · obtain ⟨b, ws, r, rfl⟩ := hc.exists_eq
    have hhash : (finalBlocks v (lastBytes v m) s.len).foldl (compressBlock v) s.hash =
        (pad v m).foldl (compressBlock v) (initialHash v) := by
      rw [padIsCompleteThenFinalBlocks v m, List.foldl_append, h.len, h.hash]
    refine ⟨⟨rfl, h.var, h.err, fun i => ?_⟩, rfl⟩
    rw [storeDigest_digest, Memory.read_writeBytes_nil, hhash, hashMessage]

theorem hashMessage_length (v : Variant) (m : List Byte) :
    (hashMessage v m).length = digestBytes v := formatDigest_length v _

/-- READ of a byte of the digest answers it, whatever the ports hold (R167). -/
theorem Delivered.exec_read (h : Delivered v m d) {k : BitVec 6} {b : Byte}
    (hb : (hashMessage v m)[k.toNat]? = some b) (p : List PortInput) (o : List Byte) :
    exec (.read k) (d.withPorts p o) = .next (d.withPorts p (o ++ [b])) := by
  have hk : k.toNat < digestBytes v :=
    hashMessage_length v m ▸ (List.getElem?_eq_some_iff.1 hb).1
  rw [exec_read_of_done (s := d.withPorts p o) k h.err h.phase h.var,
    readDigest_of_lt (s := d.withPorts p o) hk ((h.digest k.toNat).trans hb)]
  rfl

/-! ### Whole sessions -/

@[simp] theorem filter_absorbs (m : List Byte) :
    (absorbs m).filter (· ≠ .status) = absorbs m := by simp [absorbs]

@[simp] theorem count_status_absorbs (m : List Byte) : (absorbs m).count .status = 0 := by
  simp [absorbs, List.count_eq_zero]

/-- START and a message with STATUS in it, from any state with `ERR = 0`. -/
theorem exists_message (v : Variant) (m : List Byte) (herr : s.err = false) :
    ∃ t, Absorbed v m t ∧ t.errCode = s.errCode ∧
      ∀ inner : List Instr, inner.filter (· ≠ .status) = absorbs m →
        Performs (startOf v :: inner) s t
          (List.replicate (inner.count .status) (statusByte (openSession v s))) := by
  obtain ⟨t, ht, hcode, hinner⟩ := (absorbed_openSession v herr).performs_interleaved m
  exact ⟨t, ht, hcode, fun inner h => (performs_startOf v herr).cons (hinner inner h)⟩

/-- A whole session with STATUS in it (R185): the state it leads to is that of the plain one. -/
theorem exists_session (v : Variant) (m : List Byte) (herr : s.err = false) :
    ∃ d, Delivered v m d ∧ d.errCode = s.errCode ∧
      ∀ inner : List Instr, inner.filter (· ≠ .status) = absorbs m →
        Performs (startOf v :: (inner ++ [.finish])) s d
          (List.replicate (inner.count .status) (statusByte (openSession v s))) := by
  obtain ⟨t, ht, hcode, hmessage⟩ := exists_message v m herr
  obtain ⟨d, hfinish, hd, hcode'⟩ := ht.performs_finish
  exact ⟨d, hd, hcode'.trans hcode, fun inner h => by
    simpa using (hmessage inner h).append hfinish⟩

/-- The plain session is the one with no STATUS in it, so it gives no response (R185). -/
theorem performs_sessionScript {b : Byte}
    (h : ∀ inner : List Instr, inner.filter (· ≠ .status) = absorbs m →
      Performs (startOf v :: (inner ++ [.finish])) s d
        (List.replicate (inner.count .status) b)) : Performs (sessionScript v m) s d [] := by
  simpa [sessionScript] using h (absorbs m) (filter_absorbs m)

theorem exists_plainSession (v : Variant) (m : List Byte) (herr : s.err = false) :
    ∃ d, Delivered v m d ∧ Performs (sessionScript v m) s d [] := by
  obtain ⟨d, hd, -, hsession⟩ := exists_session v m herr
  exact ⟨d, hd, performs_sessionScript hsession⟩

theorem sessionScript_length (v : Variant) (m : List Byte) :
    (sessionScript v m).length = m.length + 2 := by
  simp [sessionScript, absorbs]

/-- Settles O55: the plain session, from the ports the host has handed over, and READ in the state
it leaves. -/
theorem sessionDeliversTheHash : Obligations.SessionDeliversTheHash := by
  unfold Obligations.SessionDeliversTheHash
  intro v m s herr
  obtain ⟨d, hd, hrun⟩ := exists_plainSession v m herr
  refine ⟨hashMessage_length v m, _, hrun.runSteps (sessionScript_length v m) s.out, hd.err,
    hd.phase, hd.var, List.append_nil _, hd.digest, fun i b hb => hd.exec_read hb _ _⟩

/-! ### Commands after FINISH -/

theorem Delivered.performs_read (h : Delivered v m d) {k : BitVec 6}
    (hk : k.toNat < digestBytes v) : Performs [.read k] d d [doneResponse v m (.read k)] := by
  refine performs_of_exec (h.exec_read ?_)
  rw [← hashMessage_length v m] at hk
  rw [doneResponse, List.getD_eq_getElem _ _ hk, List.getElem?_eq_getElem hk]

theorem map_doneResponse_readAll (v : Variant) (m : List Byte) :
    (readAll v).map (doneResponse v m) = hashMessage v m := by
  have hdigest : digestBytes v ≤ 64 := by cases v <;> decide
  refine List.ext_getElem (by simp [readAll, hashMessage_length]) fun i _ hi => ?_
  have hindex : i % 64 = i := Nat.mod_eq_of_lt (by rw [hashMessage_length] at hi; omega)
  simp [readAll, doneResponse, hindex, hi]

/-- READALL responds the digest (R83, R186). -/
theorem Delivered.performs_readAll (h : Delivered v m d) :
    Performs (readAll v) d d (hashMessage v m) := by
  rw [← map_doneResponse_readAll, List.map_eq_flatMap]
  refine performs_of_forall fun i hi => ?_
  simp only [readAll, List.mem_map, List.mem_range] at hi
  obtain ⟨k, hk, rfl⟩ := hi
  refine h.performs_read ((BitVec.toNat_ofNat ..).trans_lt ?_)
  exact (Nat.mod_le _ _).trans_lt hk

/-- Settles O59: the plain session gives no response, and READALL gives the digest. -/
theorem hashScriptRespondsTheDigest : Obligations.HashScriptRespondsTheDigest := by
  unfold Obligations.HashScriptRespondsTheDigest
  intro v m s herr
  obtain ⟨d, hd, hrun⟩ := exists_plainSession v m herr
  have hlen : (hashScript v m).length = m.length + 2 + digestBytes v := by
    simp [hashScript, sessionScript_length, readAll]
  exact ⟨_, (hrun.append hd.performs_readAll).runSteps hlen s.out, rfl, hd.err, hd.phase⟩

/-- The STATUS view of an open session with `ERRCODE = 0` (R24). -/
theorem statusByte_openSession (v : Variant) (herr : s.err = false) (hcode : s.errCode = 0#3) :
    statusByte (openSession v s) = absorbingStatus v := by
  rw [statusByte_eq_add, openSession_var, openSession_phase, openSession_err, openSession_errCode,
    herr, hcode]
  cases v <;> decide

/-- The STATUS view of a finished session with `ERRCODE = 0` (R24). -/
theorem Delivered.statusByte_eq (h : Delivered v m d) (hcode : d.errCode = 0#3) :
    statusByte d = doneStatus v := by
  rw [statusByte_eq_add, h.var, h.phase, h.err, hcode]
  cases v <;> decide

/-- STATUS and READ of digest bytes in a finished session (R183, R167). -/
theorem Delivered.performs_post (h : Delivered v m d) (hcode : d.errCode = 0#3) {post : List Instr}
    (hpost : ∀ i ∈ post, i = .status ∨ ∃ k, i = .read k ∧ k.toNat < digestBytes v) :
    Performs post d d (post.map (doneResponse v m)) := by
  rw [List.map_eq_flatMap]
  refine performs_of_forall fun i hi => ?_
  rcases hpost i hi with rfl | ⟨k, rfl, hk⟩
  · show Performs [.status] d d [doneStatus v]
    rw [← h.statusByte_eq hcode]
    exact performs_status d
  · exact h.performs_read hk

/-- Settles O57: with and without STATUS the message leads to one state, which FINISH takes to one
state; what follows only responds. -/
theorem interleavedStatusAndReadKeepTheResult :
    Obligations.InterleavedStatusAndReadKeepTheResult := by
  unfold Obligations.InterleavedStatusAndReadKeepTheResult
  intro v m inner post s herr hcode hinner hpost
  obtain ⟨d, hd, hdcode, hsession⟩ := exists_session (s := s) v m herr
  rw [statusByte_openSession v herr hcode] at hsession
  have hall : Performs (startOf v :: (inner ++ .finish :: post)) s d
      (List.replicate (inner.count .status) (absorbingStatus v) ++
        post.map (doneResponse v m)) := by
    simpa using (hsession inner hinner).append (hd.performs_post (hdcode.trans hcode) hpost)
  refine ⟨_, _, (performs_sessionScript hsession).runSteps (sessionScript_length v m) s.out,
    (hsession inner hinner).runSteps (by simp) s.out, rfl, hd.digest, ?_⟩
  refine (hall.runSteps (by simp; omega) s.out).trans ?_
  rw [← List.append_assoc]
  rfl

/-! ### Refused READs -/

/-- The message that commands other than STATUS absorb. -/
theorem exists_absorbs_eq_filter {inner : List Instr}
    (h : ∀ i ∈ inner, i = .status ∨ ∃ b, i = .absorb b) :
    ∃ m, inner.filter (· ≠ .status) = absorbs m := by
  have hmem : inner.filter (· ≠ .status) ∈ Set.range (List.map Instr.absorb) := by
    rw [Set.range_list_map]
    intro i hi
    obtain ⟨hi, hne⟩ := List.mem_filter.1 hi
    obtain ⟨b, rfl⟩ := (h i hi).resolve_left (by simpa using hne)
    exact ⟨b, rfl⟩
  obtain ⟨m, hm⟩ := hmem
  exact ⟨m, hm.symm⟩

/-- Settles O58: the READ is refused in the state that the commands before it lead to, and then
every command but RESET is dropped or is STATUS. -/
theorem refusedReadLocksTheSessionOut : Obligations.RefusedReadLocksTheSessionOut := by
  unfold Obligations.RefusedReadLocksTheSessionOut
  intro v k inner rest s herr hinner hrest
  obtain ⟨m, hm⟩ := exists_absorbs_eq_filter hinner
  refine ⟨?_, fun hk => ?_⟩
  · obtain ⟨t, ht, -, hmessage⟩ := exists_message (s := s) v m herr
    have hread := performs_read_badPhase k ht.err (by simp [ht.phase])
    have hlocked := performs_script_of_locked (s := recordError .badPhase t) rfl hrest
    exact ⟨_, ((hmessage inner hm).append hread).runSteps (by simp) s.out, ht.phase, rfl, rfl,
      hlocked.runSteps rfl _⟩
  · obtain ⟨d, hd, -, hsession⟩ := exists_session (s := s) v m herr
    have hread := performs_read_badIndex hd.err hd.phase hd.var hk
    have hlocked := performs_script_of_locked (s := recordError .badIndex d) rfl hrest
    have hscript := (hsession inner hm).append hread
    rw [List.cons_append, List.append_assoc] at hscript
    exact ⟨_, hscript.runSteps (by simp) s.out, hd.phase, rfl, rfl, hlocked.runSteps rfl _⟩

end Sys2Proof.Machine
end

section
/-!
THEOREMS. The published digests (R187 of spec/45_hash_system.md, section 1 of
spec/95_test_vectors.md).
-/

namespace Sys2Proof.Machine

/-- Settles O53: each digest by evaluation of `hash`. -/
theorem publishedDigestsReproduced : Obligations.PublishedDigestsReproduced := by
  unfold Obligations.PublishedDigestsReproduced
  exact ⟨by decide +kernel, by decide +kernel, by decide +kernel, by decide,
    by decide +kernel, by decide +kernel⟩

end Sys2Proof.Machine
end

section
/-!
THEOREMS. Protocol errors (spec/60_exceptions.md): the table of R191 in the priority of R192, read
through Decode and through the command; the error entry (R193), the lockout (R194) and the return
from it (R195).
-/

namespace Sys2Proof.Machine

variable {s t : State} {w : CmdWord} {i : Instr} {c : ProtocolError} {rest : List PortInput}

/-! ### The table of R191: words that are no command -/

theorem protocolErrorOf_of_illegalOpcode (h : ¬ CmdWord.legalOpcode w = true) :
    protocolErrorOf s w = some .illegalOpcode := if_pos h

section
variable (hlegal : CmdWord.legalOpcode w = true)
include hlegal

theorem protocolErrorOf_of_reserved
    (h : ¬ (CmdWord.rzZero w = true ∧ CmdWord.argReservedZero w = true)) :
    protocolErrorOf s w = some .reservedNonzero := by
  rw [protocolErrorOf, if_neg (not_not.2 hlegal), if_pos h]

theorem protocolErrorOf_of_unknownVariant
    (hzero : CmdWord.rzZero w = true ∧ CmdWord.argReservedZero w = true)
    (h : ¬ CmdWord.knownVariant w = true) : protocolErrorOf s w = some .badVariant := by
  rw [protocolErrorOf, if_neg (not_not.2 hlegal), if_neg (not_not.2 hzero), if_pos h]

end

theorem legalOpcode_iff :
    CmdWord.legalOpcode w = true ↔ ¬ (w.toNat / 0x1000 = 0 ∨ 7 ≤ w.toNat / 0x1000) := by
  simp only [CmdWord.legalOpcode, Bool.and_eq_true, decide_eq_true_eq]
  omega

/-- A word that Decode refuses raises that cause in every state: R84 makes the first three checks of
R192, in their order. -/
theorem protocolErrorOf_of_decode_error (s : State) (h : decode w = .error c) :
    protocolErrorOf s w = some c := by
  rw [decodeInTheOrderOfR84.1 w] at h
  split_ifs at h with hillegal hrz hop harg hop hrest hvariant _ _ _ hop harg hop hrest harg <;>
    cases h
  · exact protocolErrorOf_of_illegalOpcode (mt legalOpcode_iff.1 (not_not.2 hillegal))
  all_goals have hlegal := legalOpcode_iff.2 hillegal
  · exact protocolErrorOf_of_reserved hlegal (by simp [CmdWord.rzZero, hrz])
  · exact protocolErrorOf_of_reserved hlegal (by simp [CmdWord.argReservedZero, hop, harg])
  · exact protocolErrorOf_of_reserved hlegal (by simp [CmdWord.argReservedZero, hop, hrest])
  · have hcode : w.toNat % 4 = 3 := by omega
    rw [not_not] at hrz hrest
    exact protocolErrorOf_of_unknownVariant hlegal
      ⟨by simp [CmdWord.rzZero, hrz], by simp [CmdWord.argReservedZero, hop, hrest]⟩
      (by simp [CmdWord.knownVariant, hop, hcode])
  · exact protocolErrorOf_of_reserved hlegal (by simp [CmdWord.argReservedZero, hop, harg])
  · exact protocolErrorOf_of_reserved hlegal (by simp [CmdWord.argReservedZero, hop, hrest])
  · have hop : w.toNat / 0x1000 = 6 := by omega
    exact protocolErrorOf_of_reserved hlegal (by simp [CmdWord.argReservedZero, hop, harg])

/-! ### The table of R191: commands -/

/-- The number in the opcode field of a command (R71). -/
def opcodeOf : Instr → Nat
  | .reset => 1
  | .startSha256 | .startSha384 | .startSha512 => 2
  | .absorb _ => 3
  | .finish => 4
  | .read _ => 5
  | .status => 6

theorem opcode_encode (i : Instr) : (encode i).toNat / 0x1000 = opcodeOf i := by
  rw [← fieldOp_toNat]
  cases i with
  | absorb b =>
    obtain ⟨hop, -, -⟩ := fields_encode_absorb b
    rw [hop]; rfl
  | read k =>
    obtain ⟨hop, -, -⟩ := fields_encode_read k
    rw [hop]; rfl
  | reset | startSha256 | startSha384 | startSha512 | finish | status => rfl

theorem arg_encode_read (k : BitVec 6) : (encode (.read k)).toNat % 0x100 = k.toNat := by
  obtain ⟨-, -, harg⟩ := fields_encode_read k
  rw [← fieldArg_toNat, harg, BitVec.toNat_setWidth]
  omega

/-- The commands that the state refuses, and with which cause (R191): the phase is looked at before
the index (R192). -/
inductive Refused (s : State) : Instr → ProtocolError → Prop
  | outOfPhase {i : Instr} {p : Phase} (hi : neededPhase i = some p) (hphase : s.phase ≠ p) :
      Refused s i .badPhase
  | beyondDigest {v : Variant} {k : BitVec 6} (hphase : s.phase = .done) (hvar : s.var = .sel v)
      (hk : digestBytes v ≤ k.toNat) : Refused s (.read k) .badIndex

theorem refused_iff : Refused s i c ↔
    c = .badPhase ∧ (∃ p, neededPhase i = some p ∧ s.phase ≠ p) ∨
    c = .badIndex ∧ s.phase = .done ∧
      ∃ v k, i = .read k ∧ s.var = .sel v ∧ digestBytes v ≤ k.toNat := by
  constructor
  · rintro (⟨hi, hphase⟩ | ⟨hphase, hvar, hk⟩)
    · exact .inl ⟨rfl, _, hi, hphase⟩
    · exact .inr ⟨rfl, hphase, _, _, rfl, hvar, hk⟩
  · rintro (⟨rfl, p, hi, hphase⟩ | ⟨rfl, hphase, v, k, rfl, hvar, hk⟩)
    · exact .outOfPhase hi hphase
    · exact .beyondDigest hphase hvar hk

theorem mem_variants (v : Variant) : v ∈ [Variant.sha256, .sha384, .sha512] := by
  cases v <;> decide

/-- A word of R74 raises an error only by the phase and the index (R191). -/
theorem protocolErrorOf_iff_of_wellFormed (h : CmdWord.wellFormed w = true) :
    protocolErrorOf s w = some c ↔
      c = .badPhase ∧ ((w.toNat / 0x1000 = 3 ∨ w.toNat / 0x1000 = 4) ∧ s.phase ≠ .absorbing ∨
        w.toNat / 0x1000 = 5 ∧ s.phase ≠ .done) ∨
      c = .badIndex ∧ s.phase = .done ∧ w.toNat / 0x1000 = 5 ∧
        ∃ v, s.var = .sel v ∧ digestBytes v ≤ w.toNat % 0x100 := by
  simp only [CmdWord.wellFormed, Bool.and_eq_true] at h
  obtain ⟨⟨⟨hlegal, hrz⟩, harg⟩, hvariant⟩ := h
  rw [protocolErrorOf, if_neg (not_not.2 hlegal), if_neg (not_not.2 ⟨hrz, harg⟩),
    if_neg (not_not.2 hvariant)]
  have hbound : (∃ v ∈ [Variant.sha256, .sha384, .sha512],
      s.var = .sel v ∧ digestBytes v ≤ w.toNat % 0x100) ↔
        ∃ v, s.var = .sel v ∧ digestBytes v ≤ w.toNat % 0x100 := by
    simp only [mem_variants, true_and]
  split_ifs with hmessage hread hindex <;> grind

/-- A command raises an error exactly where the state refuses it. -/
theorem protocolErrorOf_encode_iff :
    protocolErrorOf s (encode i) = some c ↔ Refused s i c := by
  rw [protocolErrorOf_iff_of_wellFormed (wellFormed_encode i), opcode_encode, refused_iff]
  cases i with
  | read k => simp [opcodeOf, neededPhase, arg_encode_read]
  | reset | startSha256 | startSha384 | startSha512 | status | absorb b | finish =>
    simp [opcodeOf, neededPhase]

/-- Which error a word raises does not depend on the words that wait. -/
theorem protocolErrorOf_with_port (s : State) (p : List PortInput) (w : CmdWord) :
    protocolErrorOf { s with port := p } w = protocolErrorOf s w := rfl

/-- A word raises an error where Decode refuses it, or where the state refuses its command. -/
theorem protocolErrorOf_cases (h : protocolErrorOf s w = some c) :
    decode w = .error c ∨ ∃ i, decode w = .ok i ∧ Refused s i c := by
  cases hdec : decode w with
  | ok i =>
    rw [← encode_of_decode hdec] at h
    exact .inr ⟨i, rfl, protocolErrorOf_encode_iff.1 h⟩
  | error d =>
    rw [protocolErrorOf_of_decode_error s hdec] at h
    exact .inl (congrArg Except.error (Option.some.inj h))

/-! ### The error entry -/

theorem exec_absorb_of_not_absorbing (b : Byte) (herr : s.err = false)
    (hphase : s.phase ≠ .absorbing) : exec (.absorb b) s = .next (recordError .badPhase s) := by
  show unlessLocked (performAbsorb b) s = _
  rw [unlessLocked_open herr, performAbsorb, if_neg hphase, raiseError_eq]

theorem exec_finish_of_not_absorbing (herr : s.err = false) (hphase : s.phase ≠ .absorbing) :
    exec .finish s = .next (recordError .badPhase s) := by
  show unlessLocked performFinish s = _
  rw [unlessLocked_open herr, performFinish, if_neg hphase, raiseError_eq]

/-- A refused command is an error entry and nothing else (R193). -/
theorem exec_of_refused (herr : s.err = false) (h : Refused s i c) :
    exec i s = .next (recordError c s) := by
  cases h with
  | outOfPhase hi hphase =>
    cases i with
    | absorb b => cases hi; exact exec_absorb_of_not_absorbing b herr hphase
    | finish => cases hi; exact exec_finish_of_not_absorbing herr hphase
    | read k => cases hi; exact exec_read_of_not_done k herr hphase
    | reset | startSha256 | startSha384 | startSha512 | status => cases hi
  | beyondDigest hphase hvar hk =>
    exact (exec_read_of_done _ herr hphase hvar).trans (readDigest_of_le hk)

theorem execIllegal_of_open (herr : s.err = false) :
    execIllegal c s = .next (recordError c s) := unlessLocked_open herr

/-- Settles O9: the word is no command or its command is refused, and both are an error entry in the
state that the fetch leaves. -/
theorem errorEntryIsPrecise : Obligations.ErrorEntryIsPrecise := by
  unfold Obligations.ErrorEntryIsPrecise
  refine ⟨fun s w rest c herr hport h => ?_, rfl, rfl, rfl, rfl, rfl⟩
  rw [← protocolErrorOf_with_port s rest] at h
  rcases protocolErrorOf_cases h with hdec | ⟨i, hdec, hrefused⟩
  · exact (step_of_decode_error hport hdec).trans (execIllegal_of_open herr)
  · exact (step_of_decode hport hdec).trans (exec_of_refused herr hrefused)

/-- Among the effects only a refusal sets ERR. -/
theorem Effect.refused_of_sets_err (he : Effect i s t) (hs : s.err = false) (ht : t.err = true) :
    ∃ c, Refused s i c ∧ t = recordError c s := by
  cases he with
  | outOfPhase p _ hi hphase => exact ⟨_, .outOfPhase hi hphase, rfl⟩
  | beyondDigest v k hi _ hphase hvar hk => exact ⟨_, hi ▸ .beyondDigest hphase hvar hk, rfl⟩
  | dropped | status | opened | stored | completed | finished | digestByte =>
    exact absurd (hs.symm.trans ht) (by decide)
  | reset => exact absurd ht (by simp)

/-- Settles O10: a wait and `rst` leave ERR at 0, a word that is no command raises the cause that
Decode gives, and a command sets ERR only where it is refused. -/
theorem onlyTheListedCausesSetErr : Obligations.OnlyTheListedCausesSetErr := by
  unfold Obligations.OnlyTheListedCausesSetErr
  intro s t hstep hs ht
  rcases step_cases hstep with ⟨-, ho⟩ | ⟨rest, -, ho⟩ | ⟨w, rest, i, hport, hdec, hexec⟩ |
    ⟨w, rest, c, hport, hdec, hexec⟩
  · cases ho
    exact absurd (hs.symm.trans ht) (by decide)
  · cases ho
    exact absurd ht (by simp)
  · obtain ⟨c, hrefused, rfl⟩ := (exec_effect hexec).refused_of_sets_err hs ht
    obtain rfl := encode_of_decode hdec
    refine ⟨_, rest, c, hport, ?_, rfl⟩
    rw [← protocolErrorOf_with_port s rest]
    exact protocolErrorOf_encode_iff.2 hrefused
  · cases hexec.symm.trans (execIllegal_of_open (s := { s with port := rest }) hs)
    exact ⟨w, rest, c, hport, protocolErrorOf_of_decode_error s hdec, rfl⟩

/-! ### The lockout and the return from it -/

theorem exec_of_locked (herr : s.err = true) (hreset : i ≠ .reset) (hstatus : i ≠ .status) :
    exec i s = .next s := by
  cases i with
  | reset => exact absurd rfl hreset
  | status => exact absurd rfl hstatus
  | startSha256 | startSha384 | startSha512 | absorb | finish | read =>
    exact unlessLocked_locked herr

/-- Settles O11: a word that decodes to neither RESET nor STATUS is dropped, and so is one that does
not decode. -/
theorem lockoutDropsEveryOtherWord : Obligations.LockoutDropsEveryOtherWord := by
  unfold Obligations.LockoutDropsEveryOtherWord
  intro s w rest herr hport
  refine ⟨fun hreset hstatus => ?_, ?_⟩
  · cases hdec : decode w with
    | ok i =>
      obtain rfl := encode_of_decode hdec
      rw [step_of_decode hport hdec]
      exact exec_of_locked herr (fun hi => hreset (hi ▸ rfl)) fun hi => hstatus (hi ▸ rfl)
    | error c =>
      rw [step_of_decode_error hport hdec]
      exact unlessLocked_locked herr
  · rintro rfl
    exact (step_of_decode hport (decode_encode .status)).trans (exec_status _)

/-- Settles O12: the pin and the command are the reset of the core; a wait, a dropped word and STATUS
keep ERR and ERRCODE. -/
theorem onlyResetReturnsFromAnError : Obligations.OnlyResetReturnsFromAnError := by
  unfold Obligations.OnlyResetReturnsFromAnError
  refine fun s herr => ⟨fun rest hport => ?_, fun hno => ?_⟩
  · have hstep : step s = .next (resetCore { s with port := rest }) :=
      hport.elim step_of_rst fun h => step_of_decode h (decode_encode .reset)
    exact ⟨_, hstep, rfl, rfl, rfl, rfl⟩
  · cases hport : s.port with
    | nil => exact ⟨s, step_of_nil hport, herr, rfl⟩
    | cons x rest =>
      obtain ⟨hrst, hreset⟩ := hno rest
      cases x with
      | rst => exact absurd hport hrst
      | word w =>
        have hw : w ≠ 0x1000#16 := fun h => hreset (h ▸ hport)
        obtain ⟨hdropped, hstatus⟩ := lockoutDropsEveryOtherWord s w rest herr hport
        by_cases h : w = 0x6000#16
        · exact ⟨_, hstatus h, herr, rfl⟩
        · exact ⟨_, hdropped hw h, herr, rfl⟩

end Sys2Proof.Machine
end

section
/-!
THEOREMS. The pin `rst`, the command RESET, and the core that waits (R36, R210; log 1): the two
resets take one transaction and are `resetCore` of what the fetch leaves, which has the values of
the reset state.
-/

namespace Sys2Proof.Machine

/-- The command RESET has the effect that `step_of_rst` gives the pin (R184, R210). -/
theorem step_of_reset_word {s : State} {rest : List PortInput}
    (h : s.port = .word 0x1000#16 :: rest) :
    step s = .next (resetCore { s with port := rest }) :=
  (step_of_decode h (decode_encode .reset)).trans (exec_reset _)

/-- R36: the STATUS view after a reset is that of IDLE with no variant and no error. -/
theorem statusByte_resetCore (s : State) : statusByte (resetCore s) = 0x0C#8 := by
  rw [statusByte_eq_add, resetCore_var, resetCore_phase, resetCore_err, resetCore_errCode]
  decide

/-- A reset gives the values of the reset state (R36); the ports keep theirs. LEN and H hold no
value in IDLE, so nothing is asked of them. -/
theorem sameValues_resetCore_reset (s : State) :
    State.SameValues (resetCore s) { State.reset with port := s.port, out := s.out } where
  phase := resetCore_phase s
  var := resetCore_var s
  err := resetCore_err s
  errCode := resetCore_errCode s
  buf := resetCore_buf s
  digest := resetCore_digest s
  port := resetCore_port s
  out := resetCore_out s
  len := fun h => absurd (resetCore_phase s) h
  hash := fun h => absurd (resetCore_phase s) h

/-- Settles O13: both steps give `resetCore` of the state with the later transactions waiting, and
the fetch leaves one and the same such state. -/
theorem pinAndCommandResetAlike : Obligations.PinAndCommandResetAlike := by
  unfold Obligations.PinAndCommandResetAlike
  intro s rest
  have hpin : step { s with port := .rst :: rest } = .next (resetCore { s with port := rest }) :=
    step_of_rst rfl
  have hcommand : step { s with port := .word 0x1000#16 :: rest } =
      .next (resetCore { s with port := rest }) := step_of_reset_word rfl
  exact ⟨_, hpin, hcommand, resetCore_phase _, resetCore_var _, resetCore_err _,
    resetCore_errCode _, statusByte_resetCore _, resetCore_buf _, resetCore_digest _,
    resetCore_port _, sameValues_resetCore_reset _⟩

/-- Settles O7, by `step_of_nil`. -/
theorem waitingCoreIsUnchanged : Obligations.WaitingCoreIsUnchanged := by
  unfold Obligations.WaitingCoreIsUnchanged
  exact fun _ hport => step_of_nil hport

end Sys2Proof.Machine
end
